-- ==== Sys2Proof/Word.lean ====
section
/-! DEFINITION. The machine's word, byte and register-number types, and the extensions of R10. -/

namespace Sys2Proof

/-- A 32-bit value: XLEN, the address width and the bus width are all 32 (R6, R10). -/
abbrev Word := BitVec 32

/-- The smallest addressable unit (R80). -/
abbrev Byte := BitVec 8

/-- A register number, 0 to 31 (R11, R20). -/
abbrev Reg := BitVec 5

/-- `sext_N(v)` of R10: sign-extension to 32 bits. -/
def sext {n : Nat} (v : BitVec n) : Word := v.signExtend 32

/-- `zext_N(v)` of R10: zero-extension to 32 bits. -/
def zext {n : Nat} (v : BitVec n) : Word := v.setWidth 32

/-- The 0 or 1 a comparison writes (R24). -/
def boolWord (b : Bool) : Word := if b then 1#32 else 0#32

end Sys2Proof
end

