-- ==== Sys2Proof/Syntax.lean ====
section
/-! DEFINITION. The instructions: one constructor for each row of spec/opcode_table.json, in the table's order. -/

namespace Sys2Proof

/-- An instruction with its operand fields as the encoding carries them (R142, R145). `imm` is the raw immediate
field, extended by the meaning; `off` is the byte offset of a branch or JAL (its bit 0 is implicit in the encoding);
`rm` is the raw rounding-mode field (R361). The fields that R340, R341, R311 say are ignored are kept, so that an
instruction says every bit of its word. -/
inductive Instr where
  -- RV32I (spec/40, spec/41, spec/42, spec/46)
  /-- LUI, R200. -/
  | lui (rd : Reg) (imm : BitVec 20)
  /-- AUIPC, R201. -/
  | auipc (rd : Reg) (imm : BitVec 20)
  /-- JAL, R250. -/
  | jal (rd : Reg) (off : BitVec 21)
  /-- JALR, R251. -/
  | jalr (rd rs1 : Reg) (imm : BitVec 12)
  /-- BEQ, R252. -/
  | beq (rs1 rs2 : Reg) (off : BitVec 13)
  /-- BNE, R253. -/
  | bne (rs1 rs2 : Reg) (off : BitVec 13)
  /-- BLT, R254. -/
  | blt (rs1 rs2 : Reg) (off : BitVec 13)
  /-- BGE, R255. -/
  | bge (rs1 rs2 : Reg) (off : BitVec 13)
  /-- BLTU, R256. -/
  | bltu (rs1 rs2 : Reg) (off : BitVec 13)
  /-- BGEU, R257. -/
  | bgeu (rs1 rs2 : Reg) (off : BitVec 13)
  /-- LB, R270. -/
  | lb (rd rs1 : Reg) (imm : BitVec 12)
  /-- LH, R271. -/
  | lh (rd rs1 : Reg) (imm : BitVec 12)
  /-- LW, R272. -/
  | lw (rd rs1 : Reg) (imm : BitVec 12)
  /-- LBU, R273. -/
  | lbu (rd rs1 : Reg) (imm : BitVec 12)
  /-- LHU, R274. -/
  | lhu (rd rs1 : Reg) (imm : BitVec 12)
  /-- SB, R275. -/
  | sb (rs1 rs2 : Reg) (imm : BitVec 12)
  /-- SH, R276. -/
  | sh (rs1 rs2 : Reg) (imm : BitVec 12)
  /-- SW, R277. -/
  | sw (rs1 rs2 : Reg) (imm : BitVec 12)
  /-- ADDI, R202. -/
  | addi (rd rs1 : Reg) (imm : BitVec 12)
  /-- SLTI, R203. -/
  | slti (rd rs1 : Reg) (imm : BitVec 12)
  /-- SLTIU, R204. -/
  | sltiu (rd rs1 : Reg) (imm : BitVec 12)
  /-- XORI, R205. -/
  | xori (rd rs1 : Reg) (imm : BitVec 12)
  /-- ORI, R206. -/
  | ori (rd rs1 : Reg) (imm : BitVec 12)
  /-- ANDI, R207. -/
  | andi (rd rs1 : Reg) (imm : BitVec 12)
  /-- SLLI, R208. -/
  | slli (rd rs1 : Reg) (shamt : BitVec 5)
  /-- SRLI, R209. -/
  | srli (rd rs1 : Reg) (shamt : BitVec 5)
  /-- SRAI, R210. -/
  | srai (rd rs1 : Reg) (shamt : BitVec 5)
  /-- ADD, R211. -/
  | add (rd rs1 rs2 : Reg)
  /-- SUB, R212. -/
  | sub (rd rs1 rs2 : Reg)
  /-- SLL, R213. -/
  | sll (rd rs1 rs2 : Reg)
  /-- SLT, R214. -/
  | slt (rd rs1 rs2 : Reg)
  /-- SLTU, R215. -/
  | sltu (rd rs1 rs2 : Reg)
  /-- XOR, R216. -/
  | xor (rd rs1 rs2 : Reg)
  /-- SRL, R217. -/
  | srl (rd rs1 rs2 : Reg)
  /-- SRA, R218. -/
  | sra (rd rs1 rs2 : Reg)
  /-- OR, R219. -/
  | or (rd rs1 rs2 : Reg)
  /-- AND, R220. -/
  | and (rd rs1 rs2 : Reg)
  /-- FENCE, R340. -/
  | fence (fm pred succ : BitVec 4) (rs1 rd : Reg)
  /-- FENCE.I, R341. -/
  | fenceI (imm : BitVec 12) (rs1 rd : Reg)
  /-- ECALL, R342. -/
  | ecall
  /-- EBREAK, R343. -/
  | ebreak
  /-- SRET, R344. -/
  | sret
  /-- MRET, R345. -/
  | mret
  /-- WFI, R346. -/
  | wfi
  /-- SFENCE.VMA, R347. -/
  | sfenceVma (rs1 rs2 : Reg)
  -- M extension (spec/43)
  /-- MUL, R290. -/
  | mul (rd rs1 rs2 : Reg)
  /-- MULH, R291. -/
  | mulh (rd rs1 rs2 : Reg)
  /-- MULHSU, R292. -/
  | mulhsu (rd rs1 rs2 : Reg)
  /-- MULHU, R293. -/
  | mulhu (rd rs1 rs2 : Reg)
  /-- DIV, R294. -/
  | div (rd rs1 rs2 : Reg)
  /-- DIVU, R295. -/
  | divu (rd rs1 rs2 : Reg)
  /-- REM, R296. -/
  | rem (rd rs1 rs2 : Reg)
  /-- REMU, R297. -/
  | remu (rd rs1 rs2 : Reg)
  -- A extension (spec/44)
  /-- LR.W, R300. -/
  | lrW (rd rs1 : Reg) (aq rl : Bool)
  /-- SC.W, R301. -/
  | scW (rd rs1 rs2 : Reg) (aq rl : Bool)
  /-- AMOSWAP.W, R302. -/
  | amoswapW (rd rs1 rs2 : Reg) (aq rl : Bool)
  /-- AMOADD.W, R303. -/
  | amoaddW (rd rs1 rs2 : Reg) (aq rl : Bool)
  /-- AMOXOR.W, R304. -/
  | amoxorW (rd rs1 rs2 : Reg) (aq rl : Bool)
  /-- AMOAND.W, R305. -/
  | amoandW (rd rs1 rs2 : Reg) (aq rl : Bool)
  /-- AMOOR.W, R306. -/
  | amoorW (rd rs1 rs2 : Reg) (aq rl : Bool)
  /-- AMOMIN.W, R307. -/
  | amominW (rd rs1 rs2 : Reg) (aq rl : Bool)
  /-- AMOMAX.W, R308. -/
  | amomaxW (rd rs1 rs2 : Reg) (aq rl : Bool)
  /-- AMOMINU.W, R309. -/
  | amominuW (rd rs1 rs2 : Reg) (aq rl : Bool)
  /-- AMOMAXU.W, R310. -/
  | amomaxuW (rd rs1 rs2 : Reg) (aq rl : Bool)
  -- Zicsr (spec/45)
  /-- CSRRW, R320. -/
  | csrrw (rd rs1 : Reg) (csr : BitVec 12)
  /-- CSRRS, R321. -/
  | csrrs (rd rs1 : Reg) (csr : BitVec 12)
  /-- CSRRC, R322. -/
  | csrrc (rd rs1 : Reg) (csr : BitVec 12)
  /-- CSRRWI, R323. -/
  | csrrwi (rd : Reg) (uimm : BitVec 5) (csr : BitVec 12)
  /-- CSRRSI, R324. -/
  | csrrsi (rd : Reg) (uimm : BitVec 5) (csr : BitVec 12)
  /-- CSRRCI, R325. -/
  | csrrci (rd : Reg) (uimm : BitVec 5) (csr : BitVec 12)
  -- Zfinx (spec/47)
  /-- FADD.S, R362. -/
  | faddS (rd rs1 rs2 : Reg) (rm : BitVec 3)
  /-- FSUB.S, R363. -/
  | fsubS (rd rs1 rs2 : Reg) (rm : BitVec 3)
  /-- FMUL.S, R364. -/
  | fmulS (rd rs1 rs2 : Reg) (rm : BitVec 3)
  /-- FDIV.S, R365. -/
  | fdivS (rd rs1 rs2 : Reg) (rm : BitVec 3)
  /-- FSQRT.S, R366. -/
  | fsqrtS (rd rs1 : Reg) (rm : BitVec 3)
  /-- FSGNJ.S, R367. -/
  | fsgnjS (rd rs1 rs2 : Reg)
  /-- FSGNJN.S, R368. -/
  | fsgnjnS (rd rs1 rs2 : Reg)
  /-- FSGNJX.S, R369. -/
  | fsgnjxS (rd rs1 rs2 : Reg)
  /-- FMIN.S, R370. -/
  | fminS (rd rs1 rs2 : Reg)
  /-- FMAX.S, R371. -/
  | fmaxS (rd rs1 rs2 : Reg)
  /-- FCVT.W.S, R372. -/
  | fcvtWS (rd rs1 : Reg) (rm : BitVec 3)
  /-- FCVT.WU.S, R373. -/
  | fcvtWuS (rd rs1 : Reg) (rm : BitVec 3)
  /-- FCVT.S.W, R374. -/
  | fcvtSW (rd rs1 : Reg) (rm : BitVec 3)
  /-- FCVT.S.WU, R375. -/
  | fcvtSWu (rd rs1 : Reg) (rm : BitVec 3)
  /-- FEQ.S, R376. -/
  | feqS (rd rs1 rs2 : Reg)
  /-- FLT.S, R377. -/
  | fltS (rd rs1 rs2 : Reg)
  /-- FLE.S, R378. -/
  | fleS (rd rs1 rs2 : Reg)
  /-- FCLASS.S, R379. -/
  | fclassS (rd rs1 : Reg)
  /-- FMADD.S, R380. -/
  | fmaddS (rd rs1 rs2 rs3 : Reg) (rm : BitVec 3)
  /-- FMSUB.S, R381. -/
  | fmsubS (rd rs1 rs2 rs3 : Reg) (rm : BitVec 3)
  /-- FNMSUB.S, R382. -/
  | fnmsubS (rd rs1 rs2 rs3 : Reg) (rm : BitVec 3)
  /-- FNMADD.S, R383. -/
  | fnmaddS (rd rs1 rs2 rs3 : Reg) (rm : BitVec 3)
  deriving DecidableEq, Repr

end Sys2Proof
end

