-- ==== Sys2Proof/WellFormed.lean ====
section
/-! DEFINITION. Which instruction terms stand for an executable encoding. -/

namespace Sys2Proof

/-- R361: `rm` 101 and 110 are reserved. -/
def legalRm (rm : BitVec 3) : Bool := rm != 0b101#3 && rm != 0b110#3

/-- R145: a branch or JAL offset is a multiple of 2 (its bit 0 is not in the encoding). -/
def evenOffset {n : Nat} (off : BitVec n) : Bool := !off.getLsbD 0

/-- The offset check on branches and JAL, the rounding-mode check on every instruction with an `rm` field; the widths
of the other fields are their types. A term with a reserved `rm` has a word, which executes as an illegal instruction
(R160, R361). -/
def Instr.wellFormed : Instr → Bool
  | .jal _ off => evenOffset off
  | .beq _ _ off | .bne _ _ off | .blt _ _ off | .bge _ _ off | .bltu _ _ off | .bgeu _ _ off => evenOffset off
  | .faddS _ _ _ rm | .fsubS _ _ _ rm | .fmulS _ _ _ rm | .fdivS _ _ _ rm => legalRm rm
  | .fsqrtS _ _ rm | .fcvtWS _ _ rm | .fcvtWuS _ _ rm | .fcvtSW _ _ rm | .fcvtSWu _ _ rm => legalRm rm
  | .fmaddS _ _ _ _ rm | .fmsubS _ _ _ _ rm | .fnmsubS _ _ _ _ rm | .fnmaddS _ _ _ _ rm => legalRm rm
  | .lui .. | .auipc .. | .jalr .. | .lb .. | .lh .. | .lw .. | .lbu .. | .lhu .. | .sb .. | .sh .. | .sw .. => true
  | .addi .. | .slti .. | .sltiu .. | .xori .. | .ori .. | .andi .. | .slli .. | .srli .. | .srai .. => true
  | .add .. | .sub .. | .sll .. | .slt .. | .sltu .. | .xor .. | .srl .. | .sra .. | .or .. | .and .. => true
  | .fence .. | .fenceI .. | .ecall | .ebreak | .sret | .mret | .wfi | .sfenceVma .. => true
  | .mul .. | .mulh .. | .mulhsu .. | .mulhu .. | .div .. | .divu .. | .rem .. | .remu .. => true
  | .lrW .. | .scW .. | .amoswapW .. | .amoaddW .. | .amoxorW .. | .amoandW .. | .amoorW .. => true
  | .amominW .. | .amomaxW .. | .amominuW .. | .amomaxuW .. => true
  | .csrrw .. | .csrrs .. | .csrrc .. | .csrrwi .. | .csrrsi .. | .csrrci .. => true
  | .fsgnjS .. | .fsgnjnS .. | .fsgnjxS .. | .fminS .. | .fmaxS .. | .feqS .. | .fltS .. | .fleS .. | .fclassS .. => true

end Sys2Proof
end

