-- ==== Sys2Proof/Decode.lean ====
section
/-! DEFINITION. Decoding of any 32-bit word to an instruction or a named rejection, and the encoder
(spec/30_encoding.md, spec/opcode_table.json). -/

namespace Sys2Proof

/-! ## Fields of an instruction word (R141, R142, R145) -/

def opcodeOf (w : Word) : BitVec 7 := w.extractLsb' 0 7
def rdOf (w : Word) : Reg := w.extractLsb' 7 5
def funct3Of (w : Word) : BitVec 3 := w.extractLsb' 12 3
def rs1Of (w : Word) : Reg := w.extractLsb' 15 5
def rs2Of (w : Word) : Reg := w.extractLsb' 20 5
def funct7Of (w : Word) : BitVec 7 := w.extractLsb' 25 7

/-- `rs3` of format R4 and `funct5` of format R-amo: inst[31:27]. -/
def funct5Of (w : Word) : BitVec 5 := w.extractLsb' 27 5

/-- `fmt` of format R4: inst[26:25]. -/
def fmtOf (w : Word) : BitVec 2 := w.extractLsb' 25 2

def aqOf (w : Word) : Bool := w.getLsbD 26
def rlOf (w : Word) : Bool := w.getLsbD 25

/-- inst[31:20]: the I immediate, the CSR number, funct12 (R145). -/
def immIOf (w : Word) : BitVec 12 := w.extractLsb' 20 12

/-- inst[31:12]: the U immediate (R145). -/
def immUOf (w : Word) : BitVec 20 := w.extractLsb' 12 20

/-- The S immediate: inst[31:25], inst[11:7] (R145). -/
def immSOf (w : Word) : BitVec 12 :=
  (w.extractLsb' 25 7).setWidth 12 <<< 5 ||| (w.extractLsb' 7 5).setWidth 12

/-- The B offset: inst[31], inst[7], inst[30:25], inst[11:8], 0 (R145). -/
def offBOf (w : Word) : BitVec 13 :=
  (w.extractLsb' 31 1).setWidth 13 <<< 12 ||| (w.extractLsb' 7 1).setWidth 13 <<< 11
    ||| (w.extractLsb' 25 6).setWidth 13 <<< 5 ||| (w.extractLsb' 8 4).setWidth 13 <<< 1

/-- The J offset: inst[31], inst[19:12], inst[20], inst[30:21], 0 (R145). -/
def offJOf (w : Word) : BitVec 21 :=
  (w.extractLsb' 31 1).setWidth 21 <<< 20 ||| (w.extractLsb' 12 8).setWidth 21 <<< 12
    ||| (w.extractLsb' 20 1).setWidth 21 <<< 11 ||| (w.extractLsb' 21 10).setWidth 21 <<< 1

/-! ## Decoding (R150, R151) -/

/-- Why a word is no instruction (R160). -/
inductive DecodeReject where
  /-- inst[1:0] is not 11 (R140, D51). -/
  | notThirtyTwoBit
  /-- A major opcode the core does not decode (R150). -/
  | unknownOpcode
  /-- A funct3 value the opcode does not define (R151). -/
  | reservedFunct3
  /-- A funct7 value the opcode does not define (R151). -/
  | reservedFunct7
  /-- A funct5 value opcode AMO does not define (R151). -/
  | reservedFunct5
  /-- An rs2 field that must be another value (LR.W, FSQRT.S, FCVT, FCLASS.S; R151). -/
  | reservedRs2
  /-- A fused form whose fmt is not 00 (R151, R383). -/
  | reservedFmt
  /-- A SYSTEM word with funct3 000 that is none of those listed (R151, R348). -/
  | reservedSystem
  /-- Fewer than four bytes were given to `decodeBytes`. -/
  | tooFewBytes
  deriving DecidableEq, Repr

abbrev Decoded := Except DecodeReject Instr

def decodeLoad (w : Word) : Decoded :=
  match funct3Of w with
  | 0b000#3 => .ok (.lb (rdOf w) (rs1Of w) (immIOf w))
  | 0b001#3 => .ok (.lh (rdOf w) (rs1Of w) (immIOf w))
  | 0b010#3 => .ok (.lw (rdOf w) (rs1Of w) (immIOf w))
  | 0b100#3 => .ok (.lbu (rdOf w) (rs1Of w) (immIOf w))
  | 0b101#3 => .ok (.lhu (rdOf w) (rs1Of w) (immIOf w))
  | _ => .error .reservedFunct3

def decodeStore (w : Word) : Decoded :=
  match funct3Of w with
  | 0b000#3 => .ok (.sb (rs1Of w) (rs2Of w) (immSOf w))
  | 0b001#3 => .ok (.sh (rs1Of w) (rs2Of w) (immSOf w))
  | 0b010#3 => .ok (.sw (rs1Of w) (rs2Of w) (immSOf w))
  | _ => .error .reservedFunct3

def decodeBranch (w : Word) : Decoded :=
  match funct3Of w with
  | 0b000#3 => .ok (.beq (rs1Of w) (rs2Of w) (offBOf w))
  | 0b001#3 => .ok (.bne (rs1Of w) (rs2Of w) (offBOf w))
  | 0b100#3 => .ok (.blt (rs1Of w) (rs2Of w) (offBOf w))
  | 0b101#3 => .ok (.bge (rs1Of w) (rs2Of w) (offBOf w))
  | 0b110#3 => .ok (.bltu (rs1Of w) (rs2Of w) (offBOf w))
  | 0b111#3 => .ok (.bgeu (rs1Of w) (rs2Of w) (offBOf w))
  | _ => .error .reservedFunct3

/-- The right shifts of OP-IMM: inst[31:25] tells SRLI from SRAI. -/
def decodeShiftRightImm (w : Word) : Decoded :=
  match funct7Of w with
  | 0b0000000#7 => .ok (.srli (rdOf w) (rs1Of w) (rs2Of w))
  | 0b0100000#7 => .ok (.srai (rdOf w) (rs1Of w) (rs2Of w))
  | _ => .error .reservedFunct7

def decodeOpImm (w : Word) : Decoded :=
  match funct3Of w with
  | 0b000#3 => .ok (.addi (rdOf w) (rs1Of w) (immIOf w))
  | 0b010#3 => .ok (.slti (rdOf w) (rs1Of w) (immIOf w))
  | 0b011#3 => .ok (.sltiu (rdOf w) (rs1Of w) (immIOf w))
  | 0b100#3 => .ok (.xori (rdOf w) (rs1Of w) (immIOf w))
  | 0b110#3 => .ok (.ori (rdOf w) (rs1Of w) (immIOf w))
  | 0b111#3 => .ok (.andi (rdOf w) (rs1Of w) (immIOf w))
  | 0b001#3 =>
    if funct7Of w = 0b0000000#7 then .ok (.slli (rdOf w) (rs1Of w) (rs2Of w)) else .error .reservedFunct7
  | _ => decodeShiftRightImm w

/-- OP with funct7 0000000. -/
def decodeOpBase (w : Word) : Decoded :=
  match funct3Of w with
  | 0b000#3 => .ok (.add (rdOf w) (rs1Of w) (rs2Of w))
  | 0b001#3 => .ok (.sll (rdOf w) (rs1Of w) (rs2Of w))
  | 0b010#3 => .ok (.slt (rdOf w) (rs1Of w) (rs2Of w))
  | 0b011#3 => .ok (.sltu (rdOf w) (rs1Of w) (rs2Of w))
  | 0b100#3 => .ok (.xor (rdOf w) (rs1Of w) (rs2Of w))
  | 0b101#3 => .ok (.srl (rdOf w) (rs1Of w) (rs2Of w))
  | 0b110#3 => .ok (.or (rdOf w) (rs1Of w) (rs2Of w))
  | _ => .ok (.and (rdOf w) (rs1Of w) (rs2Of w))

/-- OP with funct7 0100000. -/
def decodeOpAlt (w : Word) : Decoded :=
  match funct3Of w with
  | 0b000#3 => .ok (.sub (rdOf w) (rs1Of w) (rs2Of w))
  | 0b101#3 => .ok (.sra (rdOf w) (rs1Of w) (rs2Of w))
  | _ => .error .reservedFunct3

/-- OP with funct7 0000001: the M extension. -/
def decodeOpMul (w : Word) : Decoded :=
  match funct3Of w with
  | 0b000#3 => .ok (.mul (rdOf w) (rs1Of w) (rs2Of w))
  | 0b001#3 => .ok (.mulh (rdOf w) (rs1Of w) (rs2Of w))
  | 0b010#3 => .ok (.mulhsu (rdOf w) (rs1Of w) (rs2Of w))
  | 0b011#3 => .ok (.mulhu (rdOf w) (rs1Of w) (rs2Of w))
  | 0b100#3 => .ok (.div (rdOf w) (rs1Of w) (rs2Of w))
  | 0b101#3 => .ok (.divu (rdOf w) (rs1Of w) (rs2Of w))
  | 0b110#3 => .ok (.rem (rdOf w) (rs1Of w) (rs2Of w))
  | _ => .ok (.remu (rdOf w) (rs1Of w) (rs2Of w))

def decodeOp (w : Word) : Decoded :=
  match funct7Of w with
  | 0b0000000#7 => decodeOpBase w
  | 0b0100000#7 => decodeOpAlt w
  | 0b0000001#7 => decodeOpMul w
  | _ => .error .reservedFunct7

def decodeJalr (w : Word) : Decoded :=
  if funct3Of w = 0b000#3 then .ok (.jalr (rdOf w) (rs1Of w) (immIOf w)) else .error .reservedFunct3

/-- MISC-MEM: every field but opcode and funct3 is free (R340, R341). -/
def decodeMiscMem (w : Word) : Decoded :=
  match funct3Of w with
  | 0b000#3 =>
    .ok (.fence (w.extractLsb' 28 4) (w.extractLsb' 24 4) (w.extractLsb' 20 4) (rs1Of w) (rdOf w))
  | 0b001#3 => .ok (.fenceI (immIOf w) (rs1Of w) (rdOf w))
  | _ => .error .reservedFunct3

/-- AMO with funct3 010 (R151). -/
def decodeAmoWord (w : Word) : Decoded :=
  match funct5Of w with
  | 0b00010#5 =>
    if rs2Of w = 0b00000#5 then .ok (.lrW (rdOf w) (rs1Of w) (aqOf w) (rlOf w)) else .error .reservedRs2
  | 0b00011#5 => .ok (.scW (rdOf w) (rs1Of w) (rs2Of w) (aqOf w) (rlOf w))
  | 0b00001#5 => .ok (.amoswapW (rdOf w) (rs1Of w) (rs2Of w) (aqOf w) (rlOf w))
  | 0b00000#5 => .ok (.amoaddW (rdOf w) (rs1Of w) (rs2Of w) (aqOf w) (rlOf w))
  | 0b00100#5 => .ok (.amoxorW (rdOf w) (rs1Of w) (rs2Of w) (aqOf w) (rlOf w))
  | 0b01100#5 => .ok (.amoandW (rdOf w) (rs1Of w) (rs2Of w) (aqOf w) (rlOf w))
  | 0b01000#5 => .ok (.amoorW (rdOf w) (rs1Of w) (rs2Of w) (aqOf w) (rlOf w))
  | 0b10000#5 => .ok (.amominW (rdOf w) (rs1Of w) (rs2Of w) (aqOf w) (rlOf w))
  | 0b10100#5 => .ok (.amomaxW (rdOf w) (rs1Of w) (rs2Of w) (aqOf w) (rlOf w))
  | 0b11000#5 => .ok (.amominuW (rdOf w) (rs1Of w) (rs2Of w) (aqOf w) (rlOf w))
  | 0b11100#5 => .ok (.amomaxuW (rdOf w) (rs1Of w) (rs2Of w) (aqOf w) (rlOf w))
  | _ => .error .reservedFunct5

def decodeAmo (w : Word) : Decoded :=
  if funct3Of w = 0b010#3 then decodeAmoWord w else .error .reservedFunct3

/-- SYSTEM with funct3 000: whole words, or SFENCE.VMA with rs1 and rs2 free (R151). -/
def decodePriv (w : Word) : Decoded :=
  match w with
  | 0x00000073#32 => .ok .ecall
  | 0x00100073#32 => .ok .ebreak
  | 0x10200073#32 => .ok .sret
  | 0x30200073#32 => .ok .mret
  | 0x10500073#32 => .ok .wfi
  | _ =>
    if funct7Of w = 0b0001001#7 ∧ rdOf w = 0b00000#5 then .ok (.sfenceVma (rs1Of w) (rs2Of w))
    else .error .reservedSystem

def decodeSystem (w : Word) : Decoded :=
  match funct3Of w with
  | 0b000#3 => decodePriv w
  | 0b001#3 => .ok (.csrrw (rdOf w) (rs1Of w) (immIOf w))
  | 0b010#3 => .ok (.csrrs (rdOf w) (rs1Of w) (immIOf w))
  | 0b011#3 => .ok (.csrrc (rdOf w) (rs1Of w) (immIOf w))
  | 0b101#3 => .ok (.csrrwi (rdOf w) (rs1Of w) (immIOf w))
  | 0b110#3 => .ok (.csrrsi (rdOf w) (rs1Of w) (immIOf w))
  | 0b111#3 => .ok (.csrrci (rdOf w) (rs1Of w) (immIOf w))
  | _ => .error .reservedFunct3

def decodeSignInject (w : Word) : Decoded :=
  match funct3Of w with
  | 0b000#3 => .ok (.fsgnjS (rdOf w) (rs1Of w) (rs2Of w))
  | 0b001#3 => .ok (.fsgnjnS (rdOf w) (rs1Of w) (rs2Of w))
  | 0b010#3 => .ok (.fsgnjxS (rdOf w) (rs1Of w) (rs2Of w))
  | _ => .error .reservedFunct3

def decodeMinMax (w : Word) : Decoded :=
  match funct3Of w with
  | 0b000#3 => .ok (.fminS (rdOf w) (rs1Of w) (rs2Of w))
  | 0b001#3 => .ok (.fmaxS (rdOf w) (rs1Of w) (rs2Of w))
  | _ => .error .reservedFunct3

def decodeFcmp (w : Word) : Decoded :=
  match funct3Of w with
  | 0b010#3 => .ok (.feqS (rdOf w) (rs1Of w) (rs2Of w))
  | 0b001#3 => .ok (.fltS (rdOf w) (rs1Of w) (rs2Of w))
  | 0b000#3 => .ok (.fleS (rdOf w) (rs1Of w) (rs2Of w))
  | _ => .error .reservedFunct3

def decodeFcvtToInt (w : Word) : Decoded :=
  match rs2Of w with
  | 0b00000#5 => .ok (.fcvtWS (rdOf w) (rs1Of w) (funct3Of w))
  | 0b00001#5 => .ok (.fcvtWuS (rdOf w) (rs1Of w) (funct3Of w))
  | _ => .error .reservedRs2

def decodeFcvtFromInt (w : Word) : Decoded :=
  match rs2Of w with
  | 0b00000#5 => .ok (.fcvtSW (rdOf w) (rs1Of w) (funct3Of w))
  | 0b00001#5 => .ok (.fcvtSWu (rdOf w) (rs1Of w) (funct3Of w))
  | _ => .error .reservedRs2

def decodeFclass (w : Word) : Decoded :=
  if rs2Of w = 0b00000#5 then
    if funct3Of w = 0b001#3 then .ok (.fclassS (rdOf w) (rs1Of w)) else .error .reservedFunct3
  else .error .reservedRs2

/-- OP-FP (R151). A reserved `rm` still decodes; it is illegal when it executes (R160, R361, log 31). -/
def decodeOpFp (w : Word) : Decoded :=
  match funct7Of w with
  | 0b0000000#7 => .ok (.faddS (rdOf w) (rs1Of w) (rs2Of w) (funct3Of w))
  | 0b0000100#7 => .ok (.fsubS (rdOf w) (rs1Of w) (rs2Of w) (funct3Of w))
  | 0b0001000#7 => .ok (.fmulS (rdOf w) (rs1Of w) (rs2Of w) (funct3Of w))
  | 0b0001100#7 => .ok (.fdivS (rdOf w) (rs1Of w) (rs2Of w) (funct3Of w))
  | 0b0101100#7 =>
    if rs2Of w = 0b00000#5 then .ok (.fsqrtS (rdOf w) (rs1Of w) (funct3Of w)) else .error .reservedRs2
  | 0b0010000#7 => decodeSignInject w
  | 0b0010100#7 => decodeMinMax w
  | 0b1100000#7 => decodeFcvtToInt w
  | 0b1101000#7 => decodeFcvtFromInt w
  | 0b1010000#7 => decodeFcmp w
  | 0b1110000#7 => decodeFclass w
  | _ => .error .reservedFunct7

/-- A fused form: format R4 with fmt 00 (R151). -/
def decodeFused (mk : Reg → Reg → Reg → Reg → BitVec 3 → Instr) (w : Word) : Decoded :=
  if fmtOf w = 0b00#2 then .ok (mk (rdOf w) (rs1Of w) (rs2Of w) (funct5Of w) (funct3Of w))
  else .error .reservedFmt

/-- The instruction a word stands for, or why it stands for none: total, by major opcode (R150, R151). -/
def decode (w : Word) : Decoded :=
  match opcodeOf w with
  | 0b0000011#7 => decodeLoad w
  | 0b0001111#7 => decodeMiscMem w
  | 0b0010011#7 => decodeOpImm w
  | 0b0010111#7 => .ok (.auipc (rdOf w) (immUOf w))
  | 0b0100011#7 => decodeStore w
  | 0b0101111#7 => decodeAmo w
  | 0b0110011#7 => decodeOp w
  | 0b0110111#7 => .ok (.lui (rdOf w) (immUOf w))
  | 0b1000011#7 => decodeFused .fmaddS w
  | 0b1000111#7 => decodeFused .fmsubS w
  | 0b1001011#7 => decodeFused .fnmsubS w
  | 0b1001111#7 => decodeFused .fnmaddS w
  | 0b1010011#7 => decodeOpFp w
  | 0b1100011#7 => decodeBranch w
  | 0b1100111#7 => decodeJalr w
  | 0b1101111#7 => .ok (.jal (rdOf w) (offJOf w))
  | 0b1110011#7 => decodeSystem w
  | op => if op.extractLsb' 0 2 = 0b11#2 then .error .unknownOpcode else .error .notThirtyTwoBit

/-- Four bytes as one little-endian word, the first byte least significant (R90, R140). -/
def wordOfBytes (b0 b1 b2 b3 : Byte) : Word :=
  b3.setWidth 32 <<< 24 ||| b2.setWidth 32 <<< 16 ||| b1.setWidth 32 <<< 8 ||| b0.setWidth 32

/-- Byte `i` of a word: bits 8i+7 to 8i (R90). -/
def byteOfWord (w : Word) (i : Nat) : Byte := w.extractLsb' (8 * i) 8

/-- Decoding of a byte string: the first instruction and the bytes after it. Total. -/
def decodeBytes : List Byte → Except DecodeReject (Instr × List Byte)
  | b0 :: b1 :: b2 :: b3 :: rest =>
    match decode (wordOfBytes b0 b1 b2 b3) with
    | .ok i => .ok (i, rest)
    | .error e => .error e
  | _ => .error .tooFewBytes

/-- The host's question: the instruction whose bits are `w`, numbered as spec/opcode_table.json numbers them, the bits
from `nbits` up being 0. Every instruction is one 32-bit word. -/
def decodeTableWord (nbits w : Nat) : Option Instr :=
  let word := BitVec.ofNat 32 (w % 2 ^ nbits)
  match decodeBytes [byteOfWord word 0, byteOfWord word 1, byteOfWord word 2, byteOfWord word 3] with
  | .ok (i, _) => some i
  | .error _ => none

/-! ## Encoding (R142) -/

/-- Format R, and every other format seen through R's six fields. -/
def packR (f7 : BitVec 7) (rs2 rs1 : Reg) (f3 : BitVec 3) (rd : Reg) (op : BitVec 7) : Word :=
  f7.setWidth 32 <<< 25 ||| rs2.setWidth 32 <<< 20 ||| rs1.setWidth 32 <<< 15 ||| f3.setWidth 32 <<< 12
    ||| rd.setWidth 32 <<< 7 ||| op.setWidth 32

/-- Formats I, I-csr, I-csri, I-fence: a 12-bit field in inst[31:20]. -/
def packI (imm : BitVec 12) (rs1 : Reg) (f3 : BitVec 3) (rd : Reg) (op : BitVec 7) : Word :=
  packR (imm.extractLsb' 5 7) (imm.extractLsb' 0 5) rs1 f3 rd op

/-- Format S. -/
def packS (imm : BitVec 12) (rs2 rs1 : Reg) (f3 : BitVec 3) (op : BitVec 7) : Word :=
  packR (imm.extractLsb' 5 7) rs2 rs1 f3 (imm.extractLsb' 0 5) op

/-- Format B: inst[31] = off[12], inst[30:25] = off[10:5], inst[11:8] = off[4:1], inst[7] = off[11]. -/
def packB (off : BitVec 13) (rs2 rs1 : Reg) (f3 : BitVec 3) (op : BitVec 7) : Word :=
  packR ((off.extractLsb' 12 1).setWidth 7 <<< 6 ||| (off.extractLsb' 5 6).setWidth 7) rs2 rs1 f3
    ((off.extractLsb' 1 4).setWidth 5 <<< 1 ||| (off.extractLsb' 11 1).setWidth 5) op

/-- Format U, and J through `jField`: a 20-bit field in inst[31:12]. -/
def packU (imm : BitVec 20) (rd : Reg) (op : BitVec 7) : Word :=
  packR (imm.extractLsb' 13 7) (imm.extractLsb' 8 5) (imm.extractLsb' 3 5) (imm.extractLsb' 0 3) rd op

/-- Format J: inst[31] = off[20], inst[30:21] = off[10:1], inst[20] = off[11], inst[19:12] = off[19:12]. -/
def jField (off : BitVec 21) : BitVec 20 :=
  (off.extractLsb' 20 1).setWidth 20 <<< 19 ||| (off.extractLsb' 1 10).setWidth 20 <<< 9
    ||| (off.extractLsb' 11 1).setWidth 20 <<< 8 ||| (off.extractLsb' 12 8).setWidth 20

/-- Format R-amo: funct5, aq, rl in inst[31:25]. -/
def amoFunct7 (f5 : BitVec 5) (aq rl : Bool) : BitVec 7 :=
  f5.setWidth 7 <<< 2 ||| (BitVec.ofBool aq).setWidth 7 <<< 1 ||| (BitVec.ofBool rl).setWidth 7

/-- Format R4: rs3 and fmt = 00 in inst[31:25]. -/
def r4Funct7 (rs3 : Reg) : BitVec 7 := rs3.setWidth 7 <<< 2

/-- Format I-fence: fm, pred, succ in inst[31:20]. -/
def fenceField (fm pred succ : BitVec 4) : BitVec 12 :=
  fm.setWidth 12 <<< 8 ||| pred.setWidth 12 <<< 4 ||| succ.setWidth 12

/-- The word of an instruction, from the same tables (R142, R151). -/
def encode : Instr → Word
  | .lui rd imm => packU imm rd 0b0110111#7
  | .auipc rd imm => packU imm rd 0b0010111#7
  | .jal rd off => packU (jField off) rd 0b1101111#7
  | .jalr rd rs1 imm => packI imm rs1 0b000#3 rd 0b1100111#7
  | .beq rs1 rs2 off => packB off rs2 rs1 0b000#3 0b1100011#7
  | .bne rs1 rs2 off => packB off rs2 rs1 0b001#3 0b1100011#7
  | .blt rs1 rs2 off => packB off rs2 rs1 0b100#3 0b1100011#7
  | .bge rs1 rs2 off => packB off rs2 rs1 0b101#3 0b1100011#7
  | .bltu rs1 rs2 off => packB off rs2 rs1 0b110#3 0b1100011#7
  | .bgeu rs1 rs2 off => packB off rs2 rs1 0b111#3 0b1100011#7
  | .lb rd rs1 imm => packI imm rs1 0b000#3 rd 0b0000011#7
  | .lh rd rs1 imm => packI imm rs1 0b001#3 rd 0b0000011#7
  | .lw rd rs1 imm => packI imm rs1 0b010#3 rd 0b0000011#7
  | .lbu rd rs1 imm => packI imm rs1 0b100#3 rd 0b0000011#7
  | .lhu rd rs1 imm => packI imm rs1 0b101#3 rd 0b0000011#7
  | .sb rs1 rs2 imm => packS imm rs2 rs1 0b000#3 0b0100011#7
  | .sh rs1 rs2 imm => packS imm rs2 rs1 0b001#3 0b0100011#7
  | .sw rs1 rs2 imm => packS imm rs2 rs1 0b010#3 0b0100011#7
  | .addi rd rs1 imm => packI imm rs1 0b000#3 rd 0b0010011#7
  | .slti rd rs1 imm => packI imm rs1 0b010#3 rd 0b0010011#7
  | .sltiu rd rs1 imm => packI imm rs1 0b011#3 rd 0b0010011#7
  | .xori rd rs1 imm => packI imm rs1 0b100#3 rd 0b0010011#7
  | .ori rd rs1 imm => packI imm rs1 0b110#3 rd 0b0010011#7
  | .andi rd rs1 imm => packI imm rs1 0b111#3 rd 0b0010011#7
  | .slli rd rs1 shamt => packR 0b0000000#7 shamt rs1 0b001#3 rd 0b0010011#7
  | .srli rd rs1 shamt => packR 0b0000000#7 shamt rs1 0b101#3 rd 0b0010011#7
  | .srai rd rs1 shamt => packR 0b0100000#7 shamt rs1 0b101#3 rd 0b0010011#7
  | .add rd rs1 rs2 => packR 0b0000000#7 rs2 rs1 0b000#3 rd 0b0110011#7
  | .sub rd rs1 rs2 => packR 0b0100000#7 rs2 rs1 0b000#3 rd 0b0110011#7
  | .sll rd rs1 rs2 => packR 0b0000000#7 rs2 rs1 0b001#3 rd 0b0110011#7
  | .slt rd rs1 rs2 => packR 0b0000000#7 rs2 rs1 0b010#3 rd 0b0110011#7
  | .sltu rd rs1 rs2 => packR 0b0000000#7 rs2 rs1 0b011#3 rd 0b0110011#7
  | .xor rd rs1 rs2 => packR 0b0000000#7 rs2 rs1 0b100#3 rd 0b0110011#7
  | .srl rd rs1 rs2 => packR 0b0000000#7 rs2 rs1 0b101#3 rd 0b0110011#7
  | .sra rd rs1 rs2 => packR 0b0100000#7 rs2 rs1 0b101#3 rd 0b0110011#7
  | .or rd rs1 rs2 => packR 0b0000000#7 rs2 rs1 0b110#3 rd 0b0110011#7
  | .and rd rs1 rs2 => packR 0b0000000#7 rs2 rs1 0b111#3 rd 0b0110011#7
  | .fence fm pred succ rs1 rd => packI (fenceField fm pred succ) rs1 0b000#3 rd 0b0001111#7
  | .fenceI imm rs1 rd => packI imm rs1 0b001#3 rd 0b0001111#7
  | .ecall => 0x00000073#32
  | .ebreak => 0x00100073#32
  | .sret => 0x10200073#32
  | .mret => 0x30200073#32
  | .wfi => 0x10500073#32
  | .sfenceVma rs1 rs2 => packR 0b0001001#7 rs2 rs1 0b000#3 0b00000#5 0b1110011#7
  | .mul rd rs1 rs2 => packR 0b0000001#7 rs2 rs1 0b000#3 rd 0b0110011#7
  | .mulh rd rs1 rs2 => packR 0b0000001#7 rs2 rs1 0b001#3 rd 0b0110011#7
  | .mulhsu rd rs1 rs2 => packR 0b0000001#7 rs2 rs1 0b010#3 rd 0b0110011#7
  | .mulhu rd rs1 rs2 => packR 0b0000001#7 rs2 rs1 0b011#3 rd 0b0110011#7
  | .div rd rs1 rs2 => packR 0b0000001#7 rs2 rs1 0b100#3 rd 0b0110011#7
  | .divu rd rs1 rs2 => packR 0b0000001#7 rs2 rs1 0b101#3 rd 0b0110011#7
  | .rem rd rs1 rs2 => packR 0b0000001#7 rs2 rs1 0b110#3 rd 0b0110011#7
  | .remu rd rs1 rs2 => packR 0b0000001#7 rs2 rs1 0b111#3 rd 0b0110011#7
  | .lrW rd rs1 aq rl => packR (amoFunct7 0b00010#5 aq rl) 0b00000#5 rs1 0b010#3 rd 0b0101111#7
  | .scW rd rs1 rs2 aq rl => packR (amoFunct7 0b00011#5 aq rl) rs2 rs1 0b010#3 rd 0b0101111#7
  | .amoswapW rd rs1 rs2 aq rl => packR (amoFunct7 0b00001#5 aq rl) rs2 rs1 0b010#3 rd 0b0101111#7
  | .amoaddW rd rs1 rs2 aq rl => packR (amoFunct7 0b00000#5 aq rl) rs2 rs1 0b010#3 rd 0b0101111#7
  | .amoxorW rd rs1 rs2 aq rl => packR (amoFunct7 0b00100#5 aq rl) rs2 rs1 0b010#3 rd 0b0101111#7
  | .amoandW rd rs1 rs2 aq rl => packR (amoFunct7 0b01100#5 aq rl) rs2 rs1 0b010#3 rd 0b0101111#7
  | .amoorW rd rs1 rs2 aq rl => packR (amoFunct7 0b01000#5 aq rl) rs2 rs1 0b010#3 rd 0b0101111#7
  | .amominW rd rs1 rs2 aq rl => packR (amoFunct7 0b10000#5 aq rl) rs2 rs1 0b010#3 rd 0b0101111#7
  | .amomaxW rd rs1 rs2 aq rl => packR (amoFunct7 0b10100#5 aq rl) rs2 rs1 0b010#3 rd 0b0101111#7
  | .amominuW rd rs1 rs2 aq rl => packR (amoFunct7 0b11000#5 aq rl) rs2 rs1 0b010#3 rd 0b0101111#7
  | .amomaxuW rd rs1 rs2 aq rl => packR (amoFunct7 0b11100#5 aq rl) rs2 rs1 0b010#3 rd 0b0101111#7
  | .csrrw rd rs1 csr => packI csr rs1 0b001#3 rd 0b1110011#7
  | .csrrs rd rs1 csr => packI csr rs1 0b010#3 rd 0b1110011#7
  | .csrrc rd rs1 csr => packI csr rs1 0b011#3 rd 0b1110011#7
  | .csrrwi rd uimm csr => packI csr uimm 0b101#3 rd 0b1110011#7
  | .csrrsi rd uimm csr => packI csr uimm 0b110#3 rd 0b1110011#7
  | .csrrci rd uimm csr => packI csr uimm 0b111#3 rd 0b1110011#7
  | .faddS rd rs1 rs2 rm => packR 0b0000000#7 rs2 rs1 rm rd 0b1010011#7
  | .fsubS rd rs1 rs2 rm => packR 0b0000100#7 rs2 rs1 rm rd 0b1010011#7
  | .fmulS rd rs1 rs2 rm => packR 0b0001000#7 rs2 rs1 rm rd 0b1010011#7
  | .fdivS rd rs1 rs2 rm => packR 0b0001100#7 rs2 rs1 rm rd 0b1010011#7
  | .fsqrtS rd rs1 rm => packR 0b0101100#7 0b00000#5 rs1 rm rd 0b1010011#7
  | .fsgnjS rd rs1 rs2 => packR 0b0010000#7 rs2 rs1 0b000#3 rd 0b1010011#7
  | .fsgnjnS rd rs1 rs2 => packR 0b0010000#7 rs2 rs1 0b001#3 rd 0b1010011#7
  | .fsgnjxS rd rs1 rs2 => packR 0b0010000#7 rs2 rs1 0b010#3 rd 0b1010011#7
  | .fminS rd rs1 rs2 => packR 0b0010100#7 rs2 rs1 0b000#3 rd 0b1010011#7
  | .fmaxS rd rs1 rs2 => packR 0b0010100#7 rs2 rs1 0b001#3 rd 0b1010011#7
  | .fcvtWS rd rs1 rm => packR 0b1100000#7 0b00000#5 rs1 rm rd 0b1010011#7
  | .fcvtWuS rd rs1 rm => packR 0b1100000#7 0b00001#5 rs1 rm rd 0b1010011#7
  | .fcvtSW rd rs1 rm => packR 0b1101000#7 0b00000#5 rs1 rm rd 0b1010011#7
  | .fcvtSWu rd rs1 rm => packR 0b1101000#7 0b00001#5 rs1 rm rd 0b1010011#7
  | .feqS rd rs1 rs2 => packR 0b1010000#7 rs2 rs1 0b010#3 rd 0b1010011#7
  | .fltS rd rs1 rs2 => packR 0b1010000#7 rs2 rs1 0b001#3 rd 0b1010011#7
  | .fleS rd rs1 rs2 => packR 0b1010000#7 rs2 rs1 0b000#3 rd 0b1010011#7
  | .fclassS rd rs1 => packR 0b1110000#7 0b00000#5 rs1 0b001#3 rd 0b1010011#7
  | .fmaddS rd rs1 rs2 rs3 rm => packR (r4Funct7 rs3) rs2 rs1 rm rd 0b1000011#7
  | .fmsubS rd rs1 rs2 rs3 rm => packR (r4Funct7 rs3) rs2 rs1 rm rd 0b1000111#7
  | .fnmsubS rd rs1 rs2 rs3 rm => packR (r4Funct7 rs3) rs2 rs1 rm rd 0b1001011#7
  | .fnmaddS rd rs1 rs2 rs3 rm => packR (r4Funct7 rs3) rs2 rs1 rm rd 0b1001111#7

/-! ## The opcode table as data (R151) -/

/-- A row of spec/opcode_table.json: a word `w` is its instruction iff `w &&& mask = value`. -/
structure TableRow where
  mnemonic : String
  mask : Word
  value : Word
  deriving DecidableEq, Repr

/-- `w` is an instance of the row (R151). -/
def TableRow.covers (r : TableRow) (w : Word) : Bool := w &&& r.mask == r.value

/-- Rows LUI to AND of spec/opcode_table.json. -/
def tableBase : List TableRow :=
  [ ⟨"LUI", 0x0000007F#32, 0x00000037#32⟩,
    ⟨"AUIPC", 0x0000007F#32, 0x00000017#32⟩,
    ⟨"JAL", 0x0000007F#32, 0x0000006F#32⟩,
    ⟨"JALR", 0x0000707F#32, 0x00000067#32⟩,
    ⟨"BEQ", 0x0000707F#32, 0x00000063#32⟩,
    ⟨"BNE", 0x0000707F#32, 0x00001063#32⟩,
    ⟨"BLT", 0x0000707F#32, 0x00004063#32⟩,
    ⟨"BGE", 0x0000707F#32, 0x00005063#32⟩,
    ⟨"BLTU", 0x0000707F#32, 0x00006063#32⟩,
    ⟨"BGEU", 0x0000707F#32, 0x00007063#32⟩,
    ⟨"LB", 0x0000707F#32, 0x00000003#32⟩,
    ⟨"LH", 0x0000707F#32, 0x00001003#32⟩,
    ⟨"LW", 0x0000707F#32, 0x00002003#32⟩,
    ⟨"LBU", 0x0000707F#32, 0x00004003#32⟩,
    ⟨"LHU", 0x0000707F#32, 0x00005003#32⟩,
    ⟨"SB", 0x0000707F#32, 0x00000023#32⟩,
    ⟨"SH", 0x0000707F#32, 0x00001023#32⟩,
    ⟨"SW", 0x0000707F#32, 0x00002023#32⟩,
    ⟨"ADDI", 0x0000707F#32, 0x00000013#32⟩,
    ⟨"SLTI", 0x0000707F#32, 0x00002013#32⟩,
    ⟨"SLTIU", 0x0000707F#32, 0x00003013#32⟩,
    ⟨"XORI", 0x0000707F#32, 0x00004013#32⟩,
    ⟨"ORI", 0x0000707F#32, 0x00006013#32⟩,
    ⟨"ANDI", 0x0000707F#32, 0x00007013#32⟩,
    ⟨"SLLI", 0xFE00707F#32, 0x00001013#32⟩,
    ⟨"SRLI", 0xFE00707F#32, 0x00005013#32⟩,
    ⟨"SRAI", 0xFE00707F#32, 0x40005013#32⟩,
    ⟨"ADD", 0xFE00707F#32, 0x00000033#32⟩,
    ⟨"SUB", 0xFE00707F#32, 0x40000033#32⟩,
    ⟨"SLL", 0xFE00707F#32, 0x00001033#32⟩,
    ⟨"SLT", 0xFE00707F#32, 0x00002033#32⟩,
    ⟨"SLTU", 0xFE00707F#32, 0x00003033#32⟩,
    ⟨"XOR", 0xFE00707F#32, 0x00004033#32⟩,
    ⟨"SRL", 0xFE00707F#32, 0x00005033#32⟩,
    ⟨"SRA", 0xFE00707F#32, 0x40005033#32⟩,
    ⟨"OR", 0xFE00707F#32, 0x00006033#32⟩,
    ⟨"AND", 0xFE00707F#32, 0x00007033#32⟩ ]

/-- Rows FENCE to SFENCE.VMA of spec/opcode_table.json. -/
def tableSystem : List TableRow :=
  [ ⟨"FENCE", 0x0000707F#32, 0x0000000F#32⟩,
    ⟨"FENCE.I", 0x0000707F#32, 0x0000100F#32⟩,
    ⟨"ECALL", 0xFFFFFFFF#32, 0x00000073#32⟩,
    ⟨"EBREAK", 0xFFFFFFFF#32, 0x00100073#32⟩,
    ⟨"SRET", 0xFFFFFFFF#32, 0x10200073#32⟩,
    ⟨"MRET", 0xFFFFFFFF#32, 0x30200073#32⟩,
    ⟨"WFI", 0xFFFFFFFF#32, 0x10500073#32⟩,
    ⟨"SFENCE.VMA", 0xFE007FFF#32, 0x12000073#32⟩ ]

/-- Rows MUL to REMU of spec/opcode_table.json. -/
def tableM : List TableRow :=
  [ ⟨"MUL", 0xFE00707F#32, 0x02000033#32⟩,
    ⟨"MULH", 0xFE00707F#32, 0x02001033#32⟩,
    ⟨"MULHSU", 0xFE00707F#32, 0x02002033#32⟩,
    ⟨"MULHU", 0xFE00707F#32, 0x02003033#32⟩,
    ⟨"DIV", 0xFE00707F#32, 0x02004033#32⟩,
    ⟨"DIVU", 0xFE00707F#32, 0x02005033#32⟩,
    ⟨"REM", 0xFE00707F#32, 0x02006033#32⟩,
    ⟨"REMU", 0xFE00707F#32, 0x02007033#32⟩ ]

/-- Rows LR.W to AMOMAXU.W of spec/opcode_table.json. -/
def tableA : List TableRow :=
  [ ⟨"LR.W", 0xF9F0707F#32, 0x1000202F#32⟩,
    ⟨"SC.W", 0xF800707F#32, 0x1800202F#32⟩,
    ⟨"AMOSWAP.W", 0xF800707F#32, 0x0800202F#32⟩,
    ⟨"AMOADD.W", 0xF800707F#32, 0x0000202F#32⟩,
    ⟨"AMOXOR.W", 0xF800707F#32, 0x2000202F#32⟩,
    ⟨"AMOAND.W", 0xF800707F#32, 0x6000202F#32⟩,
    ⟨"AMOOR.W", 0xF800707F#32, 0x4000202F#32⟩,
    ⟨"AMOMIN.W", 0xF800707F#32, 0x8000202F#32⟩,
    ⟨"AMOMAX.W", 0xF800707F#32, 0xA000202F#32⟩,
    ⟨"AMOMINU.W", 0xF800707F#32, 0xC000202F#32⟩,
    ⟨"AMOMAXU.W", 0xF800707F#32, 0xE000202F#32⟩ ]

/-- Rows CSRRW to CSRRCI of spec/opcode_table.json. -/
def tableCsr : List TableRow :=
  [ ⟨"CSRRW", 0x0000707F#32, 0x00001073#32⟩,
    ⟨"CSRRS", 0x0000707F#32, 0x00002073#32⟩,
    ⟨"CSRRC", 0x0000707F#32, 0x00003073#32⟩,
    ⟨"CSRRWI", 0x0000707F#32, 0x00005073#32⟩,
    ⟨"CSRRSI", 0x0000707F#32, 0x00006073#32⟩,
    ⟨"CSRRCI", 0x0000707F#32, 0x00007073#32⟩ ]

/-- Rows FADD.S to FNMADD.S of spec/opcode_table.json. -/
def tableFp : List TableRow :=
  [ ⟨"FADD.S", 0xFE00007F#32, 0x00000053#32⟩,
    ⟨"FSUB.S", 0xFE00007F#32, 0x08000053#32⟩,
    ⟨"FMUL.S", 0xFE00007F#32, 0x10000053#32⟩,
    ⟨"FDIV.S", 0xFE00007F#32, 0x18000053#32⟩,
    ⟨"FSQRT.S", 0xFFF0007F#32, 0x58000053#32⟩,
    ⟨"FSGNJ.S", 0xFE00707F#32, 0x20000053#32⟩,
    ⟨"FSGNJN.S", 0xFE00707F#32, 0x20001053#32⟩,
    ⟨"FSGNJX.S", 0xFE00707F#32, 0x20002053#32⟩,
    ⟨"FMIN.S", 0xFE00707F#32, 0x28000053#32⟩,
    ⟨"FMAX.S", 0xFE00707F#32, 0x28001053#32⟩,
    ⟨"FCVT.W.S", 0xFFF0007F#32, 0xC0000053#32⟩,
    ⟨"FCVT.WU.S", 0xFFF0007F#32, 0xC0100053#32⟩,
    ⟨"FCVT.S.W", 0xFFF0007F#32, 0xD0000053#32⟩,
    ⟨"FCVT.S.WU", 0xFFF0007F#32, 0xD0100053#32⟩,
    ⟨"FEQ.S", 0xFE00707F#32, 0xA0002053#32⟩,
    ⟨"FLT.S", 0xFE00707F#32, 0xA0001053#32⟩,
    ⟨"FLE.S", 0xFE00707F#32, 0xA0000053#32⟩,
    ⟨"FCLASS.S", 0xFFF0707F#32, 0xE0001053#32⟩,
    ⟨"FMADD.S", 0x0600007F#32, 0x00000043#32⟩,
    ⟨"FMSUB.S", 0x0600007F#32, 0x00000047#32⟩,
    ⟨"FNMSUB.S", 0x0600007F#32, 0x0000004B#32⟩,
    ⟨"FNMADD.S", 0x0600007F#32, 0x0000004F#32⟩ ]

/-- All 92 rows. -/
def opcodeTable : List TableRow := tableBase ++ tableSystem ++ tableM ++ tableA ++ tableCsr ++ tableFp

/-- An instruction's name, as the opcode table spells it. -/
def Instr.mnemonic : Instr → String
  | .lui .. => "LUI"
  | .auipc .. => "AUIPC"
  | .jal .. => "JAL"
  | .jalr .. => "JALR"
  | .beq .. => "BEQ"
  | .bne .. => "BNE"
  | .blt .. => "BLT"
  | .bge .. => "BGE"
  | .bltu .. => "BLTU"
  | .bgeu .. => "BGEU"
  | .lb .. => "LB"
  | .lh .. => "LH"
  | .lw .. => "LW"
  | .lbu .. => "LBU"
  | .lhu .. => "LHU"
  | .sb .. => "SB"
  | .sh .. => "SH"
  | .sw .. => "SW"
  | .addi .. => "ADDI"
  | .slti .. => "SLTI"
  | .sltiu .. => "SLTIU"
  | .xori .. => "XORI"
  | .ori .. => "ORI"
  | .andi .. => "ANDI"
  | .slli .. => "SLLI"
  | .srli .. => "SRLI"
  | .srai .. => "SRAI"
  | .add .. => "ADD"
  | .sub .. => "SUB"
  | .sll .. => "SLL"
  | .slt .. => "SLT"
  | .sltu .. => "SLTU"
  | .xor .. => "XOR"
  | .srl .. => "SRL"
  | .sra .. => "SRA"
  | .or .. => "OR"
  | .and .. => "AND"
  | .fence .. => "FENCE"
  | .fenceI .. => "FENCE.I"
  | .ecall => "ECALL"
  | .ebreak => "EBREAK"
  | .sret => "SRET"
  | .mret => "MRET"
  | .wfi => "WFI"
  | .sfenceVma .. => "SFENCE.VMA"
  | .mul .. => "MUL"
  | .mulh .. => "MULH"
  | .mulhsu .. => "MULHSU"
  | .mulhu .. => "MULHU"
  | .div .. => "DIV"
  | .divu .. => "DIVU"
  | .rem .. => "REM"
  | .remu .. => "REMU"
  | .lrW .. => "LR.W"
  | .scW .. => "SC.W"
  | .amoswapW .. => "AMOSWAP.W"
  | .amoaddW .. => "AMOADD.W"
  | .amoxorW .. => "AMOXOR.W"
  | .amoandW .. => "AMOAND.W"
  | .amoorW .. => "AMOOR.W"
  | .amominW .. => "AMOMIN.W"
  | .amomaxW .. => "AMOMAX.W"
  | .amominuW .. => "AMOMINU.W"
  | .amomaxuW .. => "AMOMAXU.W"
  | .csrrw .. => "CSRRW"
  | .csrrs .. => "CSRRS"
  | .csrrc .. => "CSRRC"
  | .csrrwi .. => "CSRRWI"
  | .csrrsi .. => "CSRRSI"
  | .csrrci .. => "CSRRCI"
  | .faddS .. => "FADD.S"
  | .fsubS .. => "FSUB.S"
  | .fmulS .. => "FMUL.S"
  | .fdivS .. => "FDIV.S"
  | .fsqrtS .. => "FSQRT.S"
  | .fsgnjS .. => "FSGNJ.S"
  | .fsgnjnS .. => "FSGNJN.S"
  | .fsgnjxS .. => "FSGNJX.S"
  | .fminS .. => "FMIN.S"
  | .fmaxS .. => "FMAX.S"
  | .fcvtWS .. => "FCVT.W.S"
  | .fcvtWuS .. => "FCVT.WU.S"
  | .fcvtSW .. => "FCVT.S.W"
  | .fcvtSWu .. => "FCVT.S.WU"
  | .feqS .. => "FEQ.S"
  | .fltS .. => "FLT.S"
  | .fleS .. => "FLE.S"
  | .fclassS .. => "FCLASS.S"
  | .fmaddS .. => "FMADD.S"
  | .fmsubS .. => "FMSUB.S"
  | .fnmsubS .. => "FNMSUB.S"
  | .fnmaddS .. => "FNMADD.S"

end Sys2Proof
end

