-- ==== Sys2Proof/Config.lean ====
section
/-! DEFINITION. What one implementation fixes (the parameters of R6) and the three free values: the
time source, the pc of a machine halted by EBREAK, and memory that nothing has written. -/

namespace Sys2Proof

/-- The two OPEN parameters of R6 that the embedder chooses and that an instruction's effect depends on. They stand
in State (field `cfg`), so that every statement about a state holds for every choice (log 7). -/
structure Config where
  /-- `PHYSICAL_MEMORY_LENGTH`, in 32-bit words (R83, D45). -/
  memWords : Nat
  /-- `UART_BASE`, a physical byte address (R465, D46). -/
  uartBase : Word
  deriving DecidableEq, Repr

namespace Config

/-- D45's default 2^30 words (the whole 32-bit space) and D46's suggested `UART_BASE`.
DESIGN CHOICE (log 7): the spec leaves both OPEN. -/
def default : Config := { memWords := 2 ^ 30, uartBase := 0x10000000#32 }

/-- `RESET_PC` (R22, D1). -/
def resetPc : Word := 0x00000000#32

/-- `MISA_VALUE` (R43, D5). -/
def misaValue : Word := 0x40141101#32

/-- `HART_ID` (R43, D6). -/
def hartId : Word := 0x00000000#32

/-- `MIP_WMASK` (R37, D12). -/
def mipWmask : Word := 0x00000AAA#32

/-- `SIP_WMASK` (R38, D12). -/
def sipWmask : Word := 0x00000002#32

/-- `MMU_TXN_ID` (R452, D40). -/
def mmuTxnId : BitVec 2 := 2#2

/-- `WR_MASTER` (R452, D40). -/
def wrMaster : BitVec 2 := 0#2

/-- `K_STALL_CYCLES` (R431). -/
def stallCycles : Nat := 2000000

/-- The default of `MAX_INST` and `MAX_CYCLES`: no limit (D43). -/
def noLimit : BitVec 64 := BitVec.allOnes 64

/-- `INST_EBREAK` (R343). -/
def instEbreak : Word := 0x00100073#32

/-- `TIME_SOURCE` (R33, D16, U9): the n-th value drawn by a read of `time` or `timeh`. A FREE VALUE (log 6): it has no
body, so nothing can be proved about it; "a draw (any 32-bit value)". -/
opaque timeSource : Nat → Word

/-- `pc[31:2]` after the halt on the EBREAK word (R343, U10, D29): "A model should treat the final `pc` as unspecified".
A FREE VALUE (log 10): it has no body, so nothing can be proved about it; `pc[1:0]` stays 0 (R22). -/
opaque haltedPc : Nat → BitVec 30

/-- The byte at an address that nothing has written, outside the boot stub and the sentinel word (U4, R563): "a model must
not assume 0". A FREE VALUE (log 1): it has no body, so nothing can be proved about it. -/
opaque powerOnByte : Nat → Byte

end Config
end Sys2Proof
end

