-- ==== Sys2Proof/Machine/State.lean ====
section
/-! DEFINITION. Everything the spec gives the machine to hold (spec/10_state.md), as plain data, its reset (R75, R560),
and the reasons a step can stop. -/

namespace Sys2Proof.Machine

/-- Bytes at addresses, in one canonical form: addresses rising, no entry equal to the boot value that its address has
while unlisted; an address without a boot value is listed once it is written (Machine/Memory.lean; log 1). -/
abbrev Memory := List Host.Cell

/-- A privilege mode (R23): the value 2 never occurs. -/
inductive Priv where
  | u
  | s
  | m
  deriving DecidableEq, Repr

/-- The sixteen CSRs with storage of their own (R30). -/
structure Csrs where
  mtvec : Word
  mepc : Word
  mcause : Word
  mie : Word
  mip : Word
  mtval : Word
  mscratch : Word
  mstatus : Word
  mideleg : Word
  medeleg : Word
  sepc : Word
  stvec : Word
  scause : Word
  sscratch : Word
  stval : Word
  satp : Word
  deriving DecidableEq, Repr

/-- The six interrupt flags `irq[c]` (R26, R512): codes 11, 3, 7, 9, 1, 5. -/
structure Irq where
  mei : Bool
  msi : Bool
  mti : Bool
  sei : Bool
  ssi : Bool
  sti : Bool
  deriving DecidableEq, Repr

/-- The internal one-bit registers of the CPU core (R25, R26, R27). -/
structure Flags where
  pageFaultInst : Bool
  pageFaultLoad : Bool
  pageFaultStore : Bool
  accessFaultInst : Bool
  accessFaultLoad : Bool
  accessFaultStore : Bool
  illegalException : Bool
  translationPending : Bool
  asy : Bool
  irq : Irq
  isException : Bool
  isBr : Bool
  brTaken : Bool
  isCsr : Bool
  simEnd : Bool
  deriving DecidableEq, Repr

/-- The store latch (R50). -/
structure StoreLatch where
  store : Bool
  addr : Word
  data : Word
  strb : BitVec 4
  deriving DecidableEq, Repr

/-- The LR/SC reservation (R51). -/
structure Reservation where
  valid : Bool
  addr : Word
  deriving DecidableEq, Repr

/-- An entry of the PTW cache (R60). -/
structure PtwEntry where
  valid : Bool
  tag : BitVec 21
  data : Word
  deriving DecidableEq, Repr

/-- The stages of the execution state machine (R65). -/
inductive Stage where
  | prepareFetch
  | waitFetch
  | prepareData
  | waitData
  | execute
  | waitAmoWrite
  | halted
  deriving DecidableEq, Repr

/-- The kind of a pre-decoded memory request (R69). -/
inductive MemKind where
  | none
  | load
  | store
  | amo
  deriving DecidableEq, Repr

/-- The type of an access, as the translator takes it (R12, R110). -/
inductive Access where
  | fetch
  | load
  | store
  deriving DecidableEq, Repr

/-- The pre-decoded memory request (R69). -/
structure MemOp where
  kind : MemKind
  vaddr : Word
  paddr : Word
  type : Access
  deriving DecidableEq, Repr

/-- A read request slot (R66). -/
structure ReadReq where
  active : Bool
  issued : Bool
  master : BitVec 2
  id : BitVec 2
  addr : Word
  totalSize : BitVec 2
  totalBeats : Nat
  beatsSeen : Nat
  respSeen : Bool
  respErr : Bool
  deriving DecidableEq, Repr

/-- The write request slot (R66). -/
structure WriteReq where
  active : Bool
  issued : Bool
  master : BitVec 2
  id : BitVec 2
  addr : Word
  totalSize : BitVec 2
  totalBeats : Nat
  beatsSeen : Nat
  respSeen : Bool
  respErr : Bool
  wdata : List Word
  wstrb : BitVec 4
  deriving DecidableEq, Repr

/-- The one-entry mailbox between translator and state machine (R68). -/
structure MmuHook where
  pending : Bool
  responseValid : Bool
  addr : Word
  data : Word
  fault : Bool
  deriving DecidableEq, Repr

/-- The slave-driven signals, inputs of a tick (R451). -/
structure AxiIn where
  arready : Bool
  awready : Bool
  wready : Bool
  rvalid : Bool
  rid : BitVec 4
  rdata : Word
  rresp : BitVec 2
  rlast : Bool
  bvalid : Bool
  bid : BitVec 4
  bresp : BitVec 2
  deriving DecidableEq, Repr

/-- The master-driven signals, outputs of a tick (R450). -/
structure AxiOut where
  arvalid : Bool
  araddr : Word
  arid : BitVec 4
  arlen : BitVec 8
  arsize : BitVec 3
  arburst : BitVec 2
  rready : Bool
  awvalid : Bool
  awaddr : Word
  awid : BitVec 4
  awlen : BitVec 8
  awsize : BitVec 3
  awburst : BitVec 2
  wvalid : Bool
  wdata : Word
  wstrb : BitVec 4
  wlast : Bool
  bready : Bool
  deriving DecidableEq, Repr

/-- The status record (R72, R432). -/
structure Status where
  simTime : BitVec 64
  instCount : BitVec 64
  halted : Bool
  success : Bool
  waitAxi : Bool
  uartValid : Bool
  uartCh : Byte
  deriving DecidableEq, Repr

/-- The request slots, the MMU mailbox and the signals of the last tick (R66, R68, R72). -/
structure Bus where
  fetchReq : ReadReq
  loadReq : ReadReq
  mmuReq : ReadReq
  writeReq : WriteReq
  mmuHook : MmuHook
  axiIn : AxiIn
  axiOut : AxiOut
  deriving DecidableEq, Repr

/-- Why the machine halted: the reason or error string of R429, R565 (empty while it runs). -/
inductive EndReason where
  | running
  /-- EBREAK (R420). -/
  | ebreak
  /-- "max_inst_reached" (R429). -/
  | maxInst
  /-- "max_cycles reached" (R429). -/
  | maxCycles
  deriving DecidableEq, Repr

/-- Counters, limits and how the run ended (R70). -/
structure Control where
  simTime : BitVec 64
  instCount : BitVec 64
  maxInst : BitVec 64
  maxCycles : BitVec 64
  lastProgress : BitVec 64
  stallReported : Bool
  success : Bool
  endReason : EndReason
  deriving DecidableEq, Repr

/-- The AXI slave of R470-R473 as plain data: a memory, and the word addresses whose reads or writes it answers with a
nonzero response (log 4, log 5). It is the environment's, not the core's. -/
structure Slave where
  mem : Memory
  readErr : List Word
  writeErr : List Word
  deriving DecidableEq, Repr

/-- The machine. -/
structure State where
  /-- x0 to x31 (R20); read and written through `reg` and `setReg` only. -/
  x : Vector Word 32
  /-- The program counter (R22). -/
  pc : Word
  /-- The privilege mode (R23). -/
  priv : Priv
  /-- The stored CSRs (R30). -/
  csr : Csrs
  /-- The internal flags (R25-R27). -/
  flags : Flags
  /-- The store latch (R50). -/
  latch : StoreLatch
  /-- The reservation (R51). -/
  res : Reservation
  /-- The PTW cache (R60). -/
  ptw : Vector PtwEntry 512
  /-- The stage (R65). -/
  stage : Stage
  /-- The fetched instruction word (R69). -/
  instWord : Word
  /-- The physical address fetched from (R69). -/
  fetchPaddr : Word
  /-- The memory request of the instruction (R69). -/
  memop : MemOp
  /-- The AXI master view (R66, R68, R72). -/
  bus : Bus
  /-- Counters and limits (R70). -/
  ctl : Control
  /-- The status record (R72). -/
  status : Status
  /-- The core's mirror of physical memory (R71). -/
  mirror : Memory
  /-- The environment: the slave (R470-R473). The model's own field (log 4). -/
  slave : Slave
  /-- The characters emitted on the UART sideband, oldest first (R465). The model's own field (log 17). -/
  uartOut : List Byte
  /-- How many free values have been drawn: reads of the time source (D16), a halt's pc (U10). The model's own field
  (log 6, log 10): no statement rests on it. -/
  draws : Nat
  /-- The OPEN parameters of R6 (log 7). Never changed by a step. -/
  cfg : Config
  deriving DecidableEq, Repr

/-- Why a step can stop with a fault. -/
inductive Fault where
  /-- A nonzero response to the write of an AMO or of a successful SC.W, raised by those instructions' meanings and by
  the WaitAmoWrite stage. U5, D24: "a model must treat it as a fault" (log 9). Safe: the hardware goes on. -/
  | amoWriteBusError
  deriving DecidableEq, Repr

/-- Why an instruction can be refused. No instruction is: every arm of `exec` has a meaning. -/
inductive Refusal where
  /-- An instruction without a meaning, named as the opcode table spells it; raised by `exec`'s arms only. Safe. -/
  | notModelled (mnemonic : String)
  deriving DecidableEq, Repr

/-! ## Reset values (R75, R560) -/

/-- All sixteen stored CSRs reset to 0 (D4). -/
def Csrs.reset : Csrs :=
  { mtvec := 0#32, mepc := 0#32, mcause := 0#32, mie := 0#32, mip := 0#32, mtval := 0#32, mscratch := 0#32
    mstatus := 0#32, mideleg := 0#32, medeleg := 0#32, sepc := 0#32, stvec := 0#32, scause := 0#32
    sscratch := 0#32, stval := 0#32, satp := 0#32 }

def Irq.clear : Irq := { mei := false, msi := false, mti := false, sei := false, ssi := false, sti := false }

/-- All flags reset false (R24, D52). -/
def Flags.reset : Flags :=
  { pageFaultInst := false, pageFaultLoad := false, pageFaultStore := false, accessFaultInst := false
    accessFaultLoad := false, accessFaultStore := false, illegalException := false, translationPending := false
    asy := false, irq := .clear, isException := false, isBr := false, brTaken := false, isCsr := false
    simEnd := false }

def PtwEntry.invalid : PtwEntry := { valid := false, tag := 0#21, data := 0#32 }

/-- An inactive read slot of a master; the fields the spec gives no reset value are 0 (log 8). -/
def ReadReq.idle (master id : BitVec 2) : ReadReq :=
  { active := false, issued := false, master := master, id := id, addr := 0#32, totalSize := 0#2, totalBeats := 0
    beatsSeen := 0, respSeen := false, respErr := false }

/-- The inactive write slot (log 8). -/
def WriteReq.idle : WriteReq :=
  { active := false, issued := false, master := Config.wrMaster, id := 1#2, addr := 0#32, totalSize := 0#2
    totalBeats := 0, beatsSeen := 0, respSeen := false, respErr := false, wdata := [], wstrb := 0#4 }

def MmuHook.idle : MmuHook :=
  { pending := false, responseValid := false, addr := 0#32, data := 0#32, fault := false }

/-- No signal driven by the slave (log 8). -/
def AxiIn.idle : AxiIn :=
  { arready := false, awready := false, wready := false, rvalid := false, rid := 0#4, rdata := 0#32, rresp := 0#2
    rlast := false, bvalid := false, bid := 0#4, bresp := 0#2 }

/-- Every output 0 (R75; R428; D62). -/
def AxiOut.idle : AxiOut :=
  { arvalid := false, araddr := 0#32, arid := 0#4, arlen := 0#8, arsize := 0#3, arburst := 0#2, rready := false
    awvalid := false, awaddr := 0#32, awid := 0#4, awlen := 0#8, awsize := 0#3, awburst := 0#2, wvalid := false
    wdata := 0#32, wstrb := 0#4, wlast := false, bready := false }

/-- The bus view with nothing going on: masters and ids of R452. -/
def Bus.idle : Bus :=
  { fetchReq := .idle 0#2 0#2, loadReq := .idle 1#2 1#2, mmuReq := .idle 2#2 Config.mmuTxnId, writeReq := .idle
    mmuHook := .idle, axiIn := .idle, axiOut := .idle }

def Control.reset : Control :=
  { simTime := 0#64, instCount := 0#64, maxInst := Config.noLimit, maxCycles := Config.noLimit
    lastProgress := 0#64, stallReported := false, success := false, endReason := .running }

/-- The status record before the first step: all 0 and false. DESIGN CHOICE (log 32): R432 makes it valid after each step
only, and R75 and R560 give it no reset value. -/
def Status.reset : Status :=
  { simTime := 0#64, instCount := 0#64, halted := false, success := false, waitAxi := false, uartValid := false
    uartCh := 0#8 }

/-- The machine right after reset (R75, R560), with no image loaded. x1 to x31 are 0 by DESIGN CHOICE (log 2);
the other choices are log 4, 5, 7, 8, 32; memory lists nothing and reads as log 1 says. -/
def State.reset : State :=
  { x := Vector.replicate 32 0#32
    pc := Config.resetPc
    priv := .m
    csr := .reset
    flags := .reset
    latch := { store := false, addr := 0#32, data := 0#32, strb := 0#4 }
    res := { valid := false, addr := 0#32 }
    ptw := Vector.replicate 512 .invalid
    stage := .prepareFetch
    instWord := 0#32
    fetchPaddr := 0#32
    memop := { kind := .none, vaddr := 0#32, paddr := 0#32, type := .load }
    bus := .idle
    ctl := .reset
    status := .reset
    mirror := []
    slave := { mem := [], readErr := [], writeErr := [] }
    uartOut := []
    draws := 0
    cfg := .default }

end Sys2Proof.Machine
end

