-- ==== Sys2Proof/Machine/Memory.lean ====
section
/-! DEFINITION. Byte memory in canonical form, and the word and strobed accesses built from it (R80, R90, R95, R464). -/

namespace Sys2Proof.Machine

/-- The words every memory holds before anything is written: the boot stub and the sentinel (R100, R561-R563, R566).
All other words are unspecified (U4, R563: "a model must not assume 0"): they have no boot value. -/
def bootWord (index : Nat) : Option Word :=
  if index = 0 then some 0xf1402573#32
  else if index = 1 then some 0x83e005b7#32
  else if index = 2 then some 0x800002b7#32
  else if index = 3 then some 0x00028067#32
  else if index = 0x10000004 / 4 then some 0x00006000#32
  else none

/-- The boot value of a byte, if it has one. -/
def bootByte (a : Nat) : Option Byte := (bootWord (a / 4)).map fun w => byteOfWord w (a % 4)

/-- What an unlisted address reads as: its boot value, else a free value (U4, R563, log 1). -/
def unlistedByte (a : Nat) : Byte := (bootByte a).getD (Config.powerOnByte a)

/-- The byte at an address. -/
def Memory.readByte : Memory → Nat → Byte
  | [], a => unlistedByte a
  | (k, b) :: t, a => if k = a then b else Memory.readByte t a

/-- Writing a byte: the list stays rising and holds no entry equal to the boot value of its address. What an address
without one reads as is not known, so a byte written there is always listed (log 1). -/
def Memory.writeByte : Memory → Nat → Byte → Memory
  | [], a, b => if bootByte a = some b then [] else [(a, b)]
  | (k, c) :: t, a, b =>
    if a < k then (if bootByte a = some b then (k, c) :: t else (a, b) :: (k, c) :: t)
    else if a = k then (if bootByte a = some b then t else (a, b) :: t)
    else (k, c) :: Memory.writeByte t a b

/-- Addresses from `lo` up strictly rising below 2^32, no entry equal to the boot value of its address. -/
def Memory.wfFrom : Nat → Memory → Bool
  | _, [] => true
  | lo, (k, b) :: t => decide (lo ≤ k) && decide (k < 2 ^ 32) && bootByte k != some b && Memory.wfFrom (k + 1) t

/-- The canonical form. -/
def Memory.wf (m : Memory) : Bool := Memory.wfFrom 0 m

/-- The address of byte lane 0 of the word that holds `a` (R90). -/
def wordBase (a : Word) : Nat := a.toNat / 4 * 4

/-- The whole aligned word that holds byte address `a`, little-endian (R90, R471). -/
def Memory.readWord (m : Memory) (a : Word) : Word :=
  wordOfBytes (m.readByte (wordBase a)) (m.readByte (wordBase a + 1)) (m.readByte (wordBase a + 2))
    (m.readByte (wordBase a + 3))

/-- One lane of a strobed write (R464). -/
def Memory.writeLane (m : Memory) (a data : Word) (strb : BitVec 4) (lane : Nat) : Memory :=
  if strb.getLsbD lane then m.writeByte (wordBase a + lane) (byteOfWord data lane) else m

/-- A write beat under its strobes: lanes outside the strobe keep their bytes (R464). -/
def Memory.writeLanes (m : Memory) (a data : Word) (strb : BitVec 4) : Memory :=
  (((m.writeLane a data strb 0).writeLane a data strb 1).writeLane a data strb 2).writeLane a data strb 3

/-- A whole aligned word, as an accepted R beat writes it into the mirror (R461). -/
def Memory.writeWord (m : Memory) (a data : Word) : Memory := m.writeLanes a data 0b1111#4

end Sys2Proof.Machine
end

