-- ==== Sys2Proof/Machine/Ops.lean ====
section
/-! DEFINITION. The shared operations: registers, pc, `mstatus` fields, the PTW cache, taking an exception and
returning from one. -/

namespace Sys2Proof.Machine

/-- What a meaning answers. -/
abbrev Result := Host.Outcome State Fault Refusal

/-! ## Registers and pc (R11, R20, R22) -/

/-- `x[r]`: x0 always reads 0 (R20). -/
def State.reg (s : State) (r : Reg) : Word :=
  if r = 0#5 then 0#32 else s.x[r.toNat]'(by have := r.isLt; omega)

/-- `x[r] <- v`: discarded when r = 0 (R11, R20). -/
def State.setReg (s : State) (r : Reg) (v : Word) : State :=
  if r = 0#5 then s else { s with x := s.x.set r.toNat v (by have := r.isLt; omega) }

/-- The next sequential instruction: pc + 4 modulo 2^32 (R22). -/
def State.advancePc (s : State) : State := { s with pc := s.pc + 4#32 }

/-- The common ending of an instruction that writes one register (R221). -/
def State.writeRd (s : State) (rd : Reg) (v : Word) : State := (s.setReg rd v).advancePc

/-- `n` ticks pass (R401(e), R433). -/
def State.tickBy (s : State) (n : Nat) : State :=
  { s with ctl.simTime := s.ctl.simTime + BitVec.ofNat 64 n }

/-! ## Privilege and `mstatus` fields (R23, R35) -/

def Priv.toBits : Priv → BitVec 2
  | .u => 0#2
  | .s => 1#2
  | .m => 3#2

/-- The mode a 2-bit field names. The value 2 is never stored in MPP (R34); it is read as U (log 15). -/
def Priv.ofBits (b : BitVec 2) : Priv :=
  if b = 1#2 then .s else if b = 3#2 then .m else .u

/-- One bit of a word replaced. -/
def setBit (w : Word) (n : Nat) (b : Bool) : Word :=
  if b then w ||| 1#32 <<< n else w &&& ~~~(1#32 <<< n)

/-- MPP, bits 12:11 of `mstatus`. -/
def mppOf (w : Word) : BitVec 2 := w.extractLsb' 11 2

/-- `mstatus` with MPP replaced. -/
def setMpp (w : Word) (p : BitVec 2) : Word := w &&& ~~~(3#32 <<< 11) ||| p.setWidth 32 <<< 11

def sieBit : Nat := 1
def mieBit : Nat := 3
def spieBit : Nat := 5
def mpieBit : Nat := 7
def sppBit : Nat := 8
def mprvBit : Nat := 17
def sumBit : Nat := 18
def mxrBit : Nat := 19

/-! ## The PTW cache (R60) -/

def ptwIndex (pa : Word) : Nat := (pa.extractLsb' 2 9).toNat

def ptwTag (pa : Word) : BitVec 21 := pa.extractLsb' 11 21

theorem ptwIndex_lt (pa : Word) : ptwIndex pa < 512 := (pa.extractLsb' 2 9).isLt

/-- The cached PTE word of a physical address, if there is a hit. -/
def State.ptwLookup (s : State) (pa : Word) : Option Word :=
  let e := s.ptw[ptwIndex pa]'(ptwIndex_lt pa)
  if e.valid && e.tag == ptwTag pa then some e.data else none

/-- The walker fills the entry of an address (R118). -/
def State.ptwFill (s : State) (pa data : Word) : State :=
  { s with ptw := s.ptw.set (ptwIndex pa) { valid := true, tag := ptwTag pa, data := data } (ptwIndex_lt pa) }

/-- Every entry invalid (R34, R130, R347): the valid bits are cleared, tags and data stay. -/
def State.ptwFlush (s : State) : State :=
  { s with ptw := ⟨(s.ptw.toList.map fun e => { e with valid := false }).toArray, by simp⟩ }

/-! ## Causes (R500, R501) -/

/-- Synchronous exceptions, by the names of R13. -/
inductive Exc where
  | instrAddrMisaligned
  | instrAccessFault
  | illegalInstr
  | loadAccessFault
  | storeAccessFault
  | ecallU
  | ecallS
  | ecallM
  | instrPageFault
  | loadPageFault
  | storePageFault
  deriving DecidableEq, Repr

def excCode : Exc → Nat
  | .instrAddrMisaligned => 0
  | .instrAccessFault => 1
  | .illegalInstr => 2
  | .loadAccessFault => 5
  | .storeAccessFault => 7
  | .ecallU => 8
  | .ecallS => 9
  | .ecallM => 11
  | .instrPageFault => 12
  | .loadPageFault => 13
  | .storePageFault => 15

/-- Interrupts (R501). -/
inductive Interrupt where
  | mei
  | msi
  | mti
  | sei
  | ssi
  | sti
  deriving DecidableEq, Repr

def interruptCode : Interrupt → Nat
  | .mei => 11
  | .msi => 3
  | .mti => 7
  | .sei => 9
  | .ssi => 1
  | .sti => 5

/-- What trap entry is taken for. -/
inductive Trap where
  | exc (e : Exc)
  | int (i : Interrupt)
  deriving DecidableEq, Repr

def trapCode : Trap → Nat
  | .exc e => excCode e
  | .int i => interruptCode i

def trapIsInterrupt : Trap → Bool
  | .exc _ => false
  | .int _ => true

/-- `cv` of R520: bit 31 is the interrupt bit. -/
def trapCauseValue (t : Trap) : Word :=
  (if trapIsInterrupt t then 0x80000000#32 else 0#32) ||| BitVec.ofNat 32 (trapCode t)

/-! ## Taking an exception (R520-R524) -/

/-- A trap goes to S-mode iff it is raised below M and delegated (R520, R524). -/
def trapToS (t : Trap) (s : State) : Bool :=
  s.priv != .m && (if trapIsInterrupt t then s.csr.mideleg else s.csr.medeleg).getLsbD (trapCode t)

/-- `TrapVector` (R523): vectored only for interrupts, and only when `tvec[0] = 1`. -/
def trapVector (tvec : Word) (t : Trap) : Word :=
  (tvec &&& 0xFFFFFFFC#32) +
    (if tvec.getLsbD 0 && trapIsInterrupt t then BitVec.ofNat 32 (4 * trapCode t) else 0#32)

/-- `mstatus` on entry into S: SPIE <- SIE, SIE <- 0, SPP <- priv[0] (R521). -/
def mstatusIntoS (w : Word) (p : Priv) : Word :=
  setBit (setBit (setBit w spieBit (w.getLsbD sieBit)) sieBit false) sppBit (p.toBits.getLsbD 0)

/-- `mstatus` on entry into M: MPIE <- MIE, MIE <- 0, MPP <- priv (R522). -/
def mstatusIntoM (w : Word) (p : Priv) : Word :=
  setMpp (setBit (setBit w mpieBit (w.getLsbD mieBit)) mieBit false) p.toBits

/-- R521 and the vector of R523. -/
def enterS (t : Trap) (tval : Word) (s : State) : State :=
  { s with
    csr := { s.csr with sepc := s.pc, scause := trapCauseValue t, stval := tval
                        mstatus := mstatusIntoS s.csr.mstatus s.priv }
    priv := .s
    pc := trapVector s.csr.stvec t }

/-- R522 and the vector of R523. -/
def enterM (t : Trap) (tval : Word) (s : State) : State :=
  { s with
    csr := { s.csr with mepc := s.pc, mcause := trapCauseValue t, mtval := tval
                        mstatus := mstatusIntoM s.csr.mstatus s.priv }
    priv := .m
    pc := trapVector s.csr.mtvec t }

/-- `TrapEntry` (R520): the one way an exception or an interrupt is taken. -/
def trapEntry (t : Trap) (tval : Word) (s : State) : State :=
  let s' := if trapToS t s then enterS t tval s else enterM t tval s
  { s' with flags.isException := true, flags.asy := trapIsInterrupt t }

/-- `raise E(tval)` (R13). -/
def raise (e : Exc) (tval : Word) (s : State) : State := trapEntry (.exc e) tval s

/-- `raise IllegalInstr(inst)`: the trap value is the instruction word (`ILLEGAL_TVAL`, D20). -/
def raiseIllegal (s : State) : State := raise .illegalInstr s.instWord s

/-- A word that decodes to nothing, or carries a reserved `rm`: `illegal_exception` is set, then R160's exception. -/
def raiseUndecodable (s : State) : State := raiseIllegal { s with flags.illegalException := true }

/-! ## Returning from an exception (R344, R345, R531) -/

/-- `mstatus` after MRET: MIE <- MPIE, MPIE <- 1, MPP <- 0, MPRV <- 0 unless the new mode is M (R345). -/
def mstatusAfterMret (w : Word) : Word :=
  let w' := setMpp (setBit (setBit w mieBit (w.getLsbD mpieBit)) mpieBit true) 0#2
  if Priv.ofBits (mppOf w) = .m then w' else setBit w' mprvBit false

/-- `mstatus` after SRET: SIE <- SPIE, SPIE <- 1, SPP <- 0, MPRV <- 0 (R344). -/
def mstatusAfterSret (w : Word) : Word :=
  setBit (setBit (setBit (setBit w sieBit (w.getLsbD spieBit)) spieBit true) sppBit false) mprvBit false

/-- MRET's effect in M-mode (R345). -/
def returnFromM (s : State) : State :=
  { s with
    csr.mstatus := mstatusAfterMret s.csr.mstatus
    priv := Priv.ofBits (mppOf s.csr.mstatus)
    pc := s.csr.mepc }

/-- SRET's effect in S- and M-mode (R344). -/
def returnFromS (s : State) : State :=
  { s with
    csr.mstatus := mstatusAfterSret s.csr.mstatus
    priv := if s.csr.mstatus.getLsbD sppBit then .s else .u
    pc := s.csr.sepc }

end Sys2Proof.Machine
end

