-- ==== Sys2Proof/Machine/Flags.lean ====
section
/-! DEFINITION. The internal flags (R24-R27) and the interrupt flags' computation (R510, R512). There are no arithmetic
condition codes (R24). -/

namespace Sys2Proof.Machine

/-- PrepareFetch begins an instruction: the fault flags are cleared (R25, R402). -/
def State.clearFaultFlags (s : State) : State :=
  { s with flags := { s.flags with
      pageFaultInst := false, pageFaultLoad := false, pageFaultStore := false
      accessFaultInst := false, accessFaultLoad := false, accessFaultStore := false
      illegalException := false, translationPending := false } }

/-- The four data-side flags cleared (R402 has done so before any data access). -/
def State.clearDataFlags (s : State) : State :=
  { s with flags := { s.flags with
      pageFaultLoad := false, pageFaultStore := false, accessFaultLoad := false, accessFaultStore := false } }

/-- A translation of the given type failed with a page fault (R25, R119). -/
def State.setPageFault (s : State) : Access → State
  | .fetch => { s with flags.pageFaultInst := true }
  | .load => { s with flags.pageFaultLoad := true }
  | .store => { s with flags.pageFaultStore := true }

/-- An access of the given type failed with an access fault (R25, R83, R91, R506). -/
def State.setAccessFault (s : State) : Access → State
  | .fetch => { s with flags.accessFaultInst := true }
  | .load => { s with flags.accessFaultLoad := true }
  | .store => { s with flags.accessFaultStore := true }

/-! ## Interrupts (R512) -/

/-- `pend`: pending and enabled (R37). -/
def interruptPending (s : State) : Word := s.csr.mip &&& s.csr.mie

/-- `m_en`: M-level interrupts are globally enabled. -/
def mEnabled (s : State) : Bool := s.priv != .m || s.csr.mstatus.getLsbD mieBit

/-- `s_en`: S-level interrupts are globally enabled; never while in M. -/
def sEnabled (s : State) : Bool := s.priv == .u || (s.priv == .s && s.csr.mstatus.getLsbD sieBit)

/-- `cand`: the takeable interrupts. -/
def interruptCandidates (s : State) : Word :=
  (if mEnabled s then interruptPending s &&& ~~~s.csr.mideleg else 0#32) |||
    (if sEnabled s then interruptPending s &&& s.csr.mideleg else 0#32)

/-- `irq[c] = cand[c]`. -/
def irqFlags (s : State) : Irq :=
  let c := interruptCandidates s
  { mei := c.getLsbD 11, msi := c.getLsbD 3, mti := c.getLsbD 7
    sei := c.getLsbD 9, ssi := c.getLsbD 1, sti := c.getLsbD 5 }

/-- The interrupt first in the order MEI, MSI, MTI, SEI, SSI, STI (R510). -/
def firstInterrupt (q : Irq) : Option Interrupt :=
  if q.mei then some .mei
  else if q.msi then some .msi
  else if q.mti then some .mti
  else if q.sei then some .sei
  else if q.ssi then some .ssi
  else if q.sti then some .sti
  else none

/-- The interrupt `exec()` takes in this state, if any (R505 item 1, R510). -/
def takeableInterrupt (s : State) : Option Interrupt := firstInterrupt (irqFlags s)

/-- The start of every `exec()` (R421, R26, D49): the flags it writes are cleared, the six interrupt flags recomputed.
`br_taken` stays false in an `exec()` that runs no branch, JAL and JALR included: DESIGN CHOICE (log 34), D49 gives it a
value only where there is a branch condition. -/
def State.beginExec (s : State) : State :=
  { s with flags := { s.flags with
      isException := false, asy := false, irq := irqFlags s, isBr := false, brTaken := false, isCsr := false } }

/-- R510: the interrupt is taken in place of the instruction at pc, with trap value 0. -/
def takeInterrupt (i : Interrupt) (s : State) : State := trapEntry (.int i) 0#32 s

/-- `is_br <- 1`, `br_taken <- cond` (R27, R259). -/
def State.setBranchFlags (s : State) (taken : Bool) : State :=
  { s with flags := { s.flags with isBr := true, brTaken := taken } }

end Sys2Proof.Machine
end

