-- ==== Sys2Proof/Machine/Translate.lean ====
section
/-! DEFINITION. Sv32 translation (R110-R119), over any way of reading a PTE word: the walk is the same at the cycle
level (where a read can be pending) and at the instruction level (where it is answered at once). -/

namespace Sys2Proof.Machine

/-- What reading a PTE word gives (R118, R440, C6). -/
inductive PteRead where
  | ok (data : Word)
  | pending
  | fault
  deriving DecidableEq, Repr

/-- What translating gives (R110). -/
inductive Translation where
  | ok (pa : Word)
  | pageFault
  | accessFault
  | pending
  deriving DecidableEq, Repr

/-- R83: the word is inside `PHYSICAL_MEMORY_LENGTH`. -/
def State.inBounds (s : State) (pa : Word) : Bool := decide (pa.toNat / 4 < s.cfg.memWords)

/-- `EffPriv` (R111): MPRV substitutes MPP for loads and stores, never for fetches. -/
def effPriv (s : State) : Access → Priv
  | .fetch => s.priv
  | .load | .store => if s.csr.mstatus.getLsbD mprvBit then Priv.ofBits (mppOf s.csr.mstatus) else s.priv

/-- A 22-bit PPN's page address modulo 2^32: the two top bits are dropped (R112). -/
def pageAddress (ppn : BitVec 22) : Word := ppn.setWidth 32 <<< 12

def satpPpn (satp : Word) : BitVec 22 := satp.extractLsb' 0 22
def ptePpn (pte : Word) : BitVec 22 := pte.extractLsb' 10 22
def pteV (pte : Word) : Bool := pte.getLsbD 0
def pteR (pte : Word) : Bool := pte.getLsbD 1
def pteW (pte : Word) : Bool := pte.getLsbD 2
def pteX (pte : Word) : Bool := pte.getLsbD 3
def pteU (pte : Word) : Bool := pte.getLsbD 4
def pteA (pte : Word) : Bool := pte.getLsbD 6
def pteD (pte : Word) : Bool := pte.getLsbD 7

/-- `Permitted` (R114). -/
def permitted (s : State) (pte : Word) (ty : Access) (eff : Priv) : Bool :=
  (ty != .fetch || pteX pte)
    && (ty != .load || pteR pte || (s.csr.mstatus.getLsbD mxrBit && pteX pte))
    && (ty != .store || pteW pte)
    && (eff != .u || pteU pte)
    && (!(eff == .s && pteU pte) || (ty != .fetch && s.csr.mstatus.getLsbD sumBit))

/-- What a PTE word is (R113): invalid or reserved, a leaf, or a pointer to the next level. -/
inductive PteClass where
  | invalid
  | leaf
  | pointer
  deriving DecidableEq, Repr

def pteClass (pte : Word) : PteClass :=
  if !pteV pte || (!pteR pte && pteW pte) then .invalid
  else if pteR pte || pteX pte then .leaf
  else .pointer

/-- The address of a PTE in the table at `base` (R110). -/
def pteAddress (base : Word) (vpn : BitVec 10) : Word := base + vpn.setWidth 32 <<< 2

/-- The physical address of a leaf (R117): a megapage takes VPN[0] from the virtual address. -/
def leafAddress (pte va : Word) (level1 : Bool) : Word :=
  pageAddress (ptePpn pte)
    ||| (if level1 then (va.extractLsb' 12 10).setWidth 32 <<< 12 else 0#32)
    ||| (va.extractLsb' 0 12).setWidth 32

/-- The checks on a leaf, in the order of R110: permission, megapage alignment (R115), A and D (R116). -/
def leafResult (s : State) (pte va : Word) (ty : Access) (eff : Priv) (level1 : Bool) : Translation :=
  if !permitted s pte ty eff then .pageFault
  else if level1 && pte.extractLsb' 10 10 != 0#10 then .pageFault
  else if !pteA pte || (ty == .store && !pteD pte) then .pageFault
  else .ok (leafAddress pte va level1)

/-- The level-0 step of the walk: a pointer there is a page fault (R110, D47). -/
def walkLevel0 (rd : State → Word → PteRead × State) (s : State) (base va : Word) (ty : Access) (eff : Priv) :
    Translation × State :=
  match rd s (pteAddress base (va.extractLsb' 12 10)) with
  | (.pending, s1) => (.pending, s1)
  | (.fault, s1) => (.accessFault, s1)
  | (.ok pte, s1) =>
    match pteClass pte with
    | .invalid => (.pageFault, s1)
    | .leaf => (leafResult s1 pte va ty eff false, s1)
    | .pointer => (.pageFault, s1)

/-- The walk from the root (R110). -/
def walk (rd : State → Word → PteRead × State) (s : State) (va : Word) (ty : Access) (eff : Priv) :
    Translation × State :=
  match rd s (pteAddress (pageAddress (satpPpn s.csr.satp)) (va.extractLsb' 22 10)) with
  | (.pending, s1) => (.pending, s1)
  | (.fault, s1) => (.accessFault, s1)
  | (.ok pte, s1) =>
    match pteClass pte with
    | .invalid => (.pageFault, s1)
    | .leaf => (leafResult s1 pte va ty eff true, s1)
    | .pointer => walkLevel0 rd s1 (pageAddress (ptePpn pte)) va ty eff

/-- Translation is on for this access: `satp.MODE = 1` and the effective privilege is not M (R110). -/
def translationOn (s : State) (ty : Access) : Bool := s.csr.satp.getLsbD 31 && effPriv s ty != .m

/-- `Translate` (R110), given how a PTE is read. -/
def translateWith (rd : State → Word → PteRead × State) (s : State) (va : Word) (ty : Access) :
    Translation × State :=
  if translationOn s ty then walk rd s va ty (effPriv s ty) else (.ok va, s)

end Sys2Proof.Machine
end

