-- ==== Sys2Proof/Machine/BusAccess.lean ====
section
/-! DEFINITION. Bus transactions and translation at the instruction level: each transaction is answered at once by the
slave State holds (R12, R430, R470-R473, R506). -/

namespace Sys2Proof.Machine

/-- The aligned word address of a byte address. -/
def wordAddress (a : Word) : Word := a &&& 0xFFFFFFFC#32

/-- The character a strobed write emits on the UART sideband: the byte of an active lane at `UART_BASE` (R465). -/
def uartByte (cfg : Config) (a data : Word) (strb : BitVec 4) : Option Byte :=
  let lane := cfg.uartBase.toNat % 4
  if wordAddress a = wordAddress cfg.uartBase && strb.getLsbD lane then some (byteOfWord data lane) else none

/-- The UART stream with the character of a write, if it emits one (R465). -/
def State.emitUart (s : State) (a data : Word) (strb : BitVec 4) : State :=
  { s with uartOut := s.uartOut ++ (uartByte s.cfg a data strb).toList }

/-- A read transaction (R461, R471): the whole word is copied into the mirror, even when the response is an error.
The answer is whether the response was an error. -/
def busRead (pa : Word) (s : State) : Bool × State :=
  (s.slave.readErr.contains (wordAddress pa),
   { s with mirror := s.mirror.writeWord pa (s.slave.mem.readWord pa) })

/-- A write transaction (R464, R465): the mirror takes the strobed bytes and the UART event is raised whatever the
response (D63); the slave's memory takes them unless it answers an error (log 5). -/
def busWrite (pa data : Word) (strb : BitVec 4) (s : State) : Bool × State :=
  let err := s.slave.writeErr.contains (wordAddress pa)
  let s1 := { s with mirror := s.mirror.writeLanes pa data strb }.emitUart pa data strb
  (err, if err then s1 else { s1 with slave.mem := s1.slave.mem.writeLanes pa data strb })

/-- `PteRead` at the instruction level (R118): bounds, then the PTW cache, then the bus; a bus error fills nothing
(R506). A miss takes two ticks (R433). -/
def pteReadDirect (s : State) (pa : Word) : PteRead × State :=
  if !s.inBounds pa then (.fault, s)
  else
    match s.ptwLookup pa with
    | some d => (.ok d, s)
    | none =>
      match busRead pa s with
      | (true, s1) => (.fault, s1.tickBy 2)
      | (false, s1) => (.ok (s.slave.mem.readWord pa), (s1.tickBy 2).ptwFill pa (s.slave.mem.readWord pa))

/-- `Translate` at the instruction level (R110). -/
def translate (s : State) (va : Word) (ty : Access) : Translation × State := translateWith pteReadDirect s va ty

end Sys2Proof.Machine
end

