-- ==== Sys2Proof/Machine/Operands.lean ====
section
/-! DEFINITION. Operand forms: immediates, shift amounts, targets, effective addresses, byte lanes, rounding modes. -/

namespace Sys2Proof.Machine

/-- `immI`, `immS`: a 12-bit field sign-extended (R145). -/
def imm12 (imm : BitVec 12) : Word := sext imm

/-- `immU`: the field in bits 31:12, zeros below (R145). -/
def immUpper (imm : BitVec 20) : Word := imm.setWidth 32 <<< 12

/-- `x[rs2][4:0]` (R222). -/
def shiftAmount (v : Word) : Nat := (v.extractLsb' 0 5).toNat

/-- The target of a branch or JAL: pc plus the sign-extended offset (R250, R252-R257). -/
def relativeTarget {n : Nat} (s : State) (off : BitVec n) : Word := s.pc + sext off

/-- The target of JALR: bit 0 cleared (R251). -/
def jalrTarget (s : State) (rs1 : Reg) (imm : BitVec 12) : Word := (s.reg rs1 + imm12 imm) &&& 0xFFFFFFFE#32

/-- A transfer target must be a multiple of 4 (R258). -/
def targetMisaligned (t : Word) : Bool := t.extractLsb' 0 2 != 0#2

/-- The effective address of a load or store (R278, R279). -/
def effectiveAddress (s : State) (rs1 : Reg) (imm : BitVec 12) : Word := s.reg rs1 + imm12 imm

/-- `va mod n != 0` (R91). -/
def misaligned (n : Nat) (va : Word) : Bool := va.toNat % n != 0

/-- `((1<<n)-1) << pa[1:0]`: the strobes of an `n`-byte write (R410). -/
def laneStrobe (n : Nat) (pa : Word) : BitVec 4 := BitVec.ofNat 4 (2 ^ n - 1) <<< (pa.toNat % 4)

/-- `(v[8n-1:0]) << (8*pa[1:0])`: the other lanes are 0 (R410, D60). -/
def laneData (n : Nat) (v pa : Word) : Word := (v &&& BitVec.ofNat 32 (2 ^ (8 * n) - 1)) <<< (8 * (pa.toNat % 4))

/-- The word of the mirror that `exec()` reads (R421). -/
def operandWord (s : State) : Word := s.mirror.readWord s.memop.paddr

/-- `w >>u (8 * pa[1:0])`: the addressed lanes at bit 0 (R278). -/
def addressedLanes (s : State) : Word := operandWord s >>> (8 * (s.memop.paddr.toNat % 4))

def loadedByte (s : State) : BitVec 8 := (addressedLanes s).setWidth 8

def loadedHalf (s : State) : BitVec 16 := (addressedLanes s).setWidth 16

/-- The five rounding modes (R361). -/
inductive Rounding where
  | rne
  | rtz
  | rdn
  | rup
  | rmm
  deriving DecidableEq, Repr

/-- The rounding mode an `rm` field selects; DYN is RNE because there is no `frm`; none for 101 and 110 (R361). -/
def roundingMode (rm : BitVec 3) : Option Rounding :=
  match rm with
  | 0b000#3 => some .rne
  | 0b001#3 => some .rtz
  | 0b010#3 => some .rdn
  | 0b011#3 => some .rup
  | 0b100#3 => some .rmm
  | 0b111#3 => some .rne
  | _ => none

end Sys2Proof.Machine
end

