-- ==== Sys2Proof/Machine/Integer.lean ====
section
/-! DEFINITION. RV32I integer computational instructions (spec/40): one register written, pc + 4, nothing else (R221). -/

namespace Sys2Proof.Machine

/-- `s(a) < s(b)`. -/
def lessSigned (a b : Word) : Bool := decide (a.toInt < b.toInt)

/-- `u(a) < u(b)`. -/
def lessUnsigned (a b : Word) : Bool := decide (a.toNat < b.toNat)

/-- LUI, R200. -/
def execLui (rd : Reg) (imm : BitVec 20) (s : State) : Result := .next (s.writeRd rd (immUpper imm))

/-- AUIPC, R201: pc is the address of the AUIPC itself. -/
def execAuipc (rd : Reg) (imm : BitVec 20) (s : State) : Result := .next (s.writeRd rd (s.pc + immUpper imm))

/-- ADDI, R202. -/
def execAddi (rd rs1 : Reg) (imm : BitVec 12) (s : State) : Result :=
  .next (s.writeRd rd (s.reg rs1 + imm12 imm))

/-- SLTI, R203. -/
def execSlti (rd rs1 : Reg) (imm : BitVec 12) (s : State) : Result :=
  .next (s.writeRd rd (boolWord (lessSigned (s.reg rs1) (imm12 imm))))

/-- SLTIU, R204: sign-extended first, then compared as unsigned. -/
def execSltiu (rd rs1 : Reg) (imm : BitVec 12) (s : State) : Result :=
  .next (s.writeRd rd (boolWord (lessUnsigned (s.reg rs1) (imm12 imm))))

/-- XORI, R205. -/
def execXori (rd rs1 : Reg) (imm : BitVec 12) (s : State) : Result :=
  .next (s.writeRd rd (s.reg rs1 ^^^ imm12 imm))

/-- ORI, R206. -/
def execOri (rd rs1 : Reg) (imm : BitVec 12) (s : State) : Result :=
  .next (s.writeRd rd (s.reg rs1 ||| imm12 imm))

/-- ANDI, R207. -/
def execAndi (rd rs1 : Reg) (imm : BitVec 12) (s : State) : Result :=
  .next (s.writeRd rd (s.reg rs1 &&& imm12 imm))

/-- SLLI, R208. -/
def execSlli (rd rs1 : Reg) (shamt : BitVec 5) (s : State) : Result :=
  .next (s.writeRd rd (s.reg rs1 <<< shamt.toNat))

/-- SRLI, R209. -/
def execSrli (rd rs1 : Reg) (shamt : BitVec 5) (s : State) : Result :=
  .next (s.writeRd rd (s.reg rs1 >>> shamt.toNat))

/-- SRAI, R210. -/
def execSrai (rd rs1 : Reg) (shamt : BitVec 5) (s : State) : Result :=
  .next (s.writeRd rd ((s.reg rs1).sshiftRight shamt.toNat))

/-- ADD, R211. -/
def execAdd (rd rs1 rs2 : Reg) (s : State) : Result :=
  .next (s.writeRd rd (s.reg rs1 + s.reg rs2))

/-- SUB, R212. -/
def execSub (rd rs1 rs2 : Reg) (s : State) : Result :=
  .next (s.writeRd rd (s.reg rs1 - s.reg rs2))

/-- SLL, R213. -/
def execSll (rd rs1 rs2 : Reg) (s : State) : Result :=
  .next (s.writeRd rd (s.reg rs1 <<< shiftAmount (s.reg rs2)))

/-- SLT, R214. -/
def execSlt (rd rs1 rs2 : Reg) (s : State) : Result :=
  .next (s.writeRd rd (boolWord (lessSigned (s.reg rs1) (s.reg rs2))))

/-- SLTU, R215. -/
def execSltu (rd rs1 rs2 : Reg) (s : State) : Result :=
  .next (s.writeRd rd (boolWord (lessUnsigned (s.reg rs1) (s.reg rs2))))

/-- XOR, R216. -/
def execXor (rd rs1 rs2 : Reg) (s : State) : Result :=
  .next (s.writeRd rd (s.reg rs1 ^^^ s.reg rs2))

/-- SRL, R217. -/
def execSrl (rd rs1 rs2 : Reg) (s : State) : Result :=
  .next (s.writeRd rd (s.reg rs1 >>> shiftAmount (s.reg rs2)))

/-- SRA, R218. -/
def execSra (rd rs1 rs2 : Reg) (s : State) : Result :=
  .next (s.writeRd rd ((s.reg rs1).sshiftRight (shiftAmount (s.reg rs2))))

/-- OR, R219. -/
def execOr (rd rs1 rs2 : Reg) (s : State) : Result :=
  .next (s.writeRd rd (s.reg rs1 ||| s.reg rs2))

/-- AND, R220. -/
def execAnd (rd rs1 rs2 : Reg) (s : State) : Result :=
  .next (s.writeRd rd (s.reg rs1 &&& s.reg rs2))

end Sys2Proof.Machine
end

