-- ==== Sys2Proof/Machine/DataPath.lean ====
section
/-! DEFINITION. The data access of a memory instruction (R278, R279, R312, R408, R410, R412): pre-decode, the access
itself at the instruction level, and the fault `exec()` finds afterwards. -/

namespace Sys2Proof.Machine

/-- A pre-decoded data access (R408): kind, virtual address, size in bytes, translation type, and the register a store
writes. -/
structure MemReq where
  kind : MemKind
  va : Word
  size : Nat
  type : Access
  data : Word
  deriving DecidableEq, Repr

/-- LB LH LW LBU LHU: va = x[rs1] + immI, type LOAD (R408). -/
def loadReq (n : Nat) (rs1 : Reg) (imm : BitVec 12) (s : State) : MemReq :=
  { kind := .load, va := effectiveAddress s rs1 imm, size := n, type := .load, data := 0#32 }

/-- SB SH SW: va = x[rs1] + immS, type STORE (R408). -/
def storeReq (n : Nat) (rs1 rs2 : Reg) (imm : BitVec 12) (s : State) : MemReq :=
  { kind := .store, va := effectiveAddress s rs1 imm, size := n, type := .store, data := s.reg rs2 }

/-- LR.W translates as a load (R312, R408, D25). -/
def lrReq (rs1 : Reg) (s : State) : MemReq :=
  { kind := .amo, va := s.reg rs1, size := 4, type := .load, data := 0#32 }

/-- SC.W and every AMO translate as a store, for their read too (R312, R408, D25). -/
def amoReq (rs1 : Reg) (s : State) : MemReq :=
  { kind := .amo, va := s.reg rs1, size := 4, type := .store, data := 0#32 }

/-- `PreDecode` (R408): none for an instruction without a memory operand. -/
def preDecode (i : Instr) (s : State) : Option MemReq :=
  match i with
  | .lb _ rs1 imm | .lbu _ rs1 imm => some (loadReq 1 rs1 imm s)
  | .lh _ rs1 imm | .lhu _ rs1 imm => some (loadReq 2 rs1 imm s)
  | .lw _ rs1 imm => some (loadReq 4 rs1 imm s)
  | .sb rs1 rs2 imm => some (storeReq 1 rs1 rs2 imm s)
  | .sh rs1 rs2 imm => some (storeReq 2 rs1 rs2 imm s)
  | .sw rs1 rs2 imm => some (storeReq 4 rs1 rs2 imm s)
  | .lrW _ rs1 _ _ => some (lrReq rs1 s)
  | .scW _ rs1 _ _ _ | .amoswapW _ rs1 _ _ _ | .amoaddW _ rs1 _ _ _ | .amoxorW _ rs1 _ _ _ => some (amoReq rs1 s)
  | .amoandW _ rs1 _ _ _ | .amoorW _ rs1 _ _ _ | .amominW _ rs1 _ _ _ => some (amoReq rs1 s)
  | .amomaxW _ rs1 _ _ _ | .amominuW _ rs1 _ _ _ | .amomaxuW _ rs1 _ _ _ => some (amoReq rs1 s)
  | _ => none

/-- The bus transaction of an access: a store is written on the bus HERE, before `exec()` (C4); a load, LR.W, SC.W or
AMO reads the whole word (R410, R412). The answer is whether the response was an error. -/
def transact (m : MemReq) (pa : Word) (s : State) : Bool × State :=
  match m.kind with
  | .store => busWrite pa (laneData m.size m.data pa) (laneStrobe m.size pa) s
  | .load | .amo | .none => busRead pa s

/-- An error response sets the access fault of the access's type (R412, R506). -/
def flagError (err : Bool) (ty : Access) (s : State) : State := if err then s.setAccessFault ty else s

/-- The memory request is latched (R410). -/
def latchRequest (m : MemReq) (pa : Word) (s : State) : State :=
  { s with memop := { kind := m.kind, vaddr := m.va, paddr := pa, type := m.type } }

/-- The transfer of an access, its translation done: two ticks (R410, R412, R433). -/
def dataTransfer (m : MemReq) (pa : Word) (s : State) : State :=
  let r := transact m pa (latchRequest m pa s)
  flagError r.1 m.type (r.2.tickBy 2)

/-- The data flags and the store latch start clear, as PrepareFetch and the last Execute step left them (R402, R422). -/
def dataStart (s : State) : State := { s.clearDataFlags with latch.store := false }

/-- PrepareData and WaitData (R410, R412): alignment on the virtual address first, then translation and bounds, then
the bus. Each failure sets its flag and stops the data path. -/
def dataPhase (m : MemReq) (s : State) : State :=
  if misaligned m.size m.va then (dataStart s).setAccessFault m.type
  else
    match translate (dataStart s) m.va m.type with
    | (.ok pa, s1) => if s1.inBounds pa then dataTransfer m pa s1 else s1.setAccessFault m.type
    | (.pageFault, s1) => s1.setPageFault m.type
    | (.accessFault, s1) => s1.setAccessFault m.type
    | (.pending, s1) => s1.setAccessFault m.type  -- never: `pteReadDirect` is never pending

/-- The fault `exec()` raises for a load-type access: access fault before page fault (R421, R505). -/
def loadFault (s : State) : Option Exc :=
  if s.flags.accessFaultLoad then some .loadAccessFault
  else if s.flags.pageFaultLoad then some .loadPageFault
  else none

/-- The fault `exec()` raises for a store-type access (R421, R505). -/
def storeFault (s : State) : Option Exc :=
  if s.flags.accessFaultStore then some .storeAccessFault
  else if s.flags.pageFaultStore then some .storePageFault
  else none

end Sys2Proof.Machine
end

