-- ==== Sys2Proof/Machine/LoadStore.lean ====
section
/-! DEFINITION. Loads and stores (spec/42). An instruction's meaning is its data access (Machine/DataPath.lean) followed
by its Execute part, the `…Body`, which reads the fault flags and the mirror word the access left (R421). -/

namespace Sys2Proof.Machine

/-- The Execute part of a load: the fault found, or the value written (R278). -/
def loadBody (va : Word) (rd : Reg) (v : Word) (s : State) : State :=
  match loadFault s with
  | some e => raise e va s
  | none => s.writeRd rd v

/-- The store latch filled (R50). -/
def State.fillLatch (s : State) (addr data : Word) (strb : BitVec 4) : State :=
  { s with latch := { store := true, addr := addr, data := data, strb := strb } }

/-- The Execute part of a store: the fault found, or the latch filled, which nothing writes again (R279, R422). -/
def storeBody (va : Word) (n : Nat) (v : Word) (s : State) : State :=
  match storeFault s with
  | some e => raise e va s
  | none => (s.fillLatch s.memop.paddr (laneData n v s.memop.paddr) (laneStrobe n s.memop.paddr)).advancePc

/-- The Execute part of LB, R270. -/
def lbBody (rd rs1 : Reg) (imm : BitVec 12) (s : State) : State :=
  loadBody (effectiveAddress s rs1 imm) rd (sext (loadedByte s)) s

/-- LB, R270. -/
def execLb (rd rs1 : Reg) (imm : BitVec 12) (s : State) : Result :=
  .next (lbBody rd rs1 imm (dataPhase (loadReq 1 rs1 imm s) s))

/-- The Execute part of LH, R271. -/
def lhBody (rd rs1 : Reg) (imm : BitVec 12) (s : State) : State :=
  loadBody (effectiveAddress s rs1 imm) rd (sext (loadedHalf s)) s

/-- LH, R271. -/
def execLh (rd rs1 : Reg) (imm : BitVec 12) (s : State) : Result :=
  .next (lhBody rd rs1 imm (dataPhase (loadReq 2 rs1 imm s) s))

/-- The Execute part of LW, R272. -/
def lwBody (rd rs1 : Reg) (imm : BitVec 12) (s : State) : State :=
  loadBody (effectiveAddress s rs1 imm) rd (operandWord s) s

/-- LW, R272. -/
def execLw (rd rs1 : Reg) (imm : BitVec 12) (s : State) : Result :=
  .next (lwBody rd rs1 imm (dataPhase (loadReq 4 rs1 imm s) s))

/-- The Execute part of LBU, R273. -/
def lbuBody (rd rs1 : Reg) (imm : BitVec 12) (s : State) : State :=
  loadBody (effectiveAddress s rs1 imm) rd (zext (loadedByte s)) s

/-- LBU, R273. -/
def execLbu (rd rs1 : Reg) (imm : BitVec 12) (s : State) : Result :=
  .next (lbuBody rd rs1 imm (dataPhase (loadReq 1 rs1 imm s) s))

/-- The Execute part of LHU, R274. -/
def lhuBody (rd rs1 : Reg) (imm : BitVec 12) (s : State) : State :=
  loadBody (effectiveAddress s rs1 imm) rd (zext (loadedHalf s)) s

/-- LHU, R274. -/
def execLhu (rd rs1 : Reg) (imm : BitVec 12) (s : State) : Result :=
  .next (lhuBody rd rs1 imm (dataPhase (loadReq 2 rs1 imm s) s))

/-- The Execute part of SB, R275. -/
def sbBody (rs1 rs2 : Reg) (imm : BitVec 12) (s : State) : State :=
  storeBody (effectiveAddress s rs1 imm) 1 (s.reg rs2) s

/-- SB, R275. -/
def execSb (rs1 rs2 : Reg) (imm : BitVec 12) (s : State) : Result :=
  .next (sbBody rs1 rs2 imm (dataPhase (storeReq 1 rs1 rs2 imm s) s))

/-- The Execute part of SH, R276. -/
def shBody (rs1 rs2 : Reg) (imm : BitVec 12) (s : State) : State :=
  storeBody (effectiveAddress s rs1 imm) 2 (s.reg rs2) s

/-- SH, R276. -/
def execSh (rs1 rs2 : Reg) (imm : BitVec 12) (s : State) : Result :=
  .next (shBody rs1 rs2 imm (dataPhase (storeReq 2 rs1 rs2 imm s) s))

/-- The Execute part of SW, R277. -/
def swBody (rs1 rs2 : Reg) (imm : BitVec 12) (s : State) : State :=
  storeBody (effectiveAddress s rs1 imm) 4 (s.reg rs2) s

/-- SW, R277. -/
def execSw (rs1 rs2 : Reg) (imm : BitVec 12) (s : State) : Result :=
  .next (swBody rs1 rs2 imm (dataPhase (storeReq 4 rs1 rs2 imm s) s))

end Sys2Proof.Machine
end

