-- ==== Sys2Proof/Machine/Atomic.lean ====
section
/-! DEFINITION. LR.W, SC.W and the nine AMOs (spec/44). `aq` and `rl` are ignored (R311). An instruction's meaning is its
data access, its Execute part (the `…Body`) and, for SC.W and the AMOs, the write of the latch that follows Execute
(R313, R425). -/

namespace Sys2Proof.Machine

/-- The Execute part of LR.W: the reservation is replaced (R300). -/
def lrBody (rd rs1 : Reg) (s : State) : State :=
  match loadFault s with
  | some e => raise e (s.reg rs1) s
  | none => { s with res := { valid := true, addr := s.memop.paddr } }.writeRd rd (operandWord s)

/-- SC.W succeeds: a reservation is held on the same physical word (R301). -/
def scSucceeds (s : State) : Bool := s.res.valid && s.res.addr == s.memop.paddr

/-- The Execute part of SC.W: the reservation is dropped either way, the latch filled only on success (R301). -/
def scBody (rd rs1 rs2 : Reg) (s : State) : State :=
  match storeFault s with
  | some e => raise e (s.reg rs1) s
  | none =>
    let s1 := { s with res.valid := false }
    if scSucceeds s then (s1.fillLatch s.memop.paddr (s.reg rs2) 0b1111#4).writeRd rd 0#32
    else s1.writeRd rd 1#32

/-- The Execute part of an AMO: the old value into `rd`, the new one into the latch (spec/44 section 3). -/
def amoBody (f : Word → Word → Word) (rd rs1 rs2 : Reg) (s : State) : State :=
  match storeFault s with
  | some e => raise e (s.reg rs1) s
  | none => (s.fillLatch s.memop.paddr (f (operandWord s) (s.reg rs2)) 0b1111#4).writeRd rd (operandWord s)

/-- WaitAmoWrite (R425): a set latch is written on the bus. A nonzero response is the fault of R314, U5 (log 9). -/
def amoCommit (s : State) : Result :=
  if s.latch.store then
    match busWrite s.latch.addr s.latch.data s.latch.strb s with
    | (true, _) => .fault .amoWriteBusError
    | (false, t) => .next t
  else .next s

/-- `f` of AMOMIN.W (R307). -/
def minSigned (old b : Word) : Word := if lessSigned old b then old else b

/-- `f` of AMOMAX.W (R308). -/
def maxSigned (old b : Word) : Word := if lessSigned b old then old else b

/-- `f` of AMOMINU.W (R309). -/
def minUnsigned (old b : Word) : Word := if lessUnsigned old b then old else b

/-- `f` of AMOMAXU.W (R310). -/
def maxUnsigned (old b : Word) : Word := if lessUnsigned b old then old else b

/-- LR.W, R300. -/
def execLrW (rd rs1 : Reg) (_aq _rl : Bool) (s : State) : Result :=
  .next (lrBody rd rs1 (dataPhase (lrReq rs1 s) s))

/-- SC.W, R301. -/
def execScW (rd rs1 rs2 : Reg) (_aq _rl : Bool) (s : State) : Result :=
  amoCommit (scBody rd rs1 rs2 (dataPhase (amoReq rs1 s) s))

/-- AMOSWAP.W, R302. -/
def execAmoswapW (rd rs1 rs2 : Reg) (_aq _rl : Bool) (s : State) : Result :=
  amoCommit (amoBody (fun _ b => b) rd rs1 rs2 (dataPhase (amoReq rs1 s) s))

/-- AMOADD.W, R303. -/
def execAmoaddW (rd rs1 rs2 : Reg) (_aq _rl : Bool) (s : State) : Result :=
  amoCommit (amoBody (fun old b => old + b) rd rs1 rs2 (dataPhase (amoReq rs1 s) s))

/-- AMOXOR.W, R304. -/
def execAmoxorW (rd rs1 rs2 : Reg) (_aq _rl : Bool) (s : State) : Result :=
  amoCommit (amoBody (fun old b => old ^^^ b) rd rs1 rs2 (dataPhase (amoReq rs1 s) s))

/-- AMOAND.W, R305. -/
def execAmoandW (rd rs1 rs2 : Reg) (_aq _rl : Bool) (s : State) : Result :=
  amoCommit (amoBody (fun old b => old &&& b) rd rs1 rs2 (dataPhase (amoReq rs1 s) s))

/-- AMOOR.W, R306. -/
def execAmoorW (rd rs1 rs2 : Reg) (_aq _rl : Bool) (s : State) : Result :=
  amoCommit (amoBody (fun old b => old ||| b) rd rs1 rs2 (dataPhase (amoReq rs1 s) s))

/-- AMOMIN.W, R307. -/
def execAmominW (rd rs1 rs2 : Reg) (_aq _rl : Bool) (s : State) : Result :=
  amoCommit (amoBody minSigned rd rs1 rs2 (dataPhase (amoReq rs1 s) s))

/-- AMOMAX.W, R308. -/
def execAmomaxW (rd rs1 rs2 : Reg) (_aq _rl : Bool) (s : State) : Result :=
  amoCommit (amoBody maxSigned rd rs1 rs2 (dataPhase (amoReq rs1 s) s))

/-- AMOMINU.W, R309. -/
def execAmominuW (rd rs1 rs2 : Reg) (_aq _rl : Bool) (s : State) : Result :=
  amoCommit (amoBody minUnsigned rd rs1 rs2 (dataPhase (amoReq rs1 s) s))

/-- AMOMAXU.W, R310. -/
def execAmomaxuW (rd rs1 rs2 : Reg) (_aq _rl : Bool) (s : State) : Result :=
  amoCommit (amoBody maxUnsigned rd rs1 rs2 (dataPhase (amoReq rs1 s) s))

end Sys2Proof.Machine
end

