-- ==== Sys2Proof/Machine/Control.lean ====
section
/-! DEFINITION. JAL, JALR and the six branches (spec/41). -/

namespace Sys2Proof.Machine

/-- A transfer to `t`: `InstrAddrMisaligned(t)` if `t` is not a multiple of 4, else `linked` with pc at `t` (R258). -/
def transferTo (t : Word) (linked : State) (s : State) : State :=
  if targetMisaligned t then raise .instrAddrMisaligned t s else { linked with pc := t }

/-- A conditional branch (spec/41 section 3): `is_br`, `br_taken`, then the transfer if taken. -/
def branch (cond : Bool) (t : Word) (s : State) : State :=
  if cond then transferTo t (s.setBranchFlags true) (s.setBranchFlags true)
  else (s.setBranchFlags false).advancePc

/-- JAL, R250. -/
def execJal (rd : Reg) (off : BitVec 21) (s : State) : Result :=
  .next (transferTo (relativeTarget s off) (s.setReg rd (s.pc + 4#32)) s)

/-- JALR, R251: the target is computed before `rd` is written. -/
def execJalr (rd rs1 : Reg) (imm : BitVec 12) (s : State) : Result :=
  .next (transferTo (jalrTarget s rs1 imm) (s.setReg rd (s.pc + 4#32)) s)

/-- BEQ, R252. -/
def execBeq (rs1 rs2 : Reg) (off : BitVec 13) (s : State) : Result :=
  .next (branch (s.reg rs1 == s.reg rs2) (relativeTarget s off) s)

/-- BNE, R253. -/
def execBne (rs1 rs2 : Reg) (off : BitVec 13) (s : State) : Result :=
  .next (branch (s.reg rs1 != s.reg rs2) (relativeTarget s off) s)

/-- BLT, R254. -/
def execBlt (rs1 rs2 : Reg) (off : BitVec 13) (s : State) : Result :=
  .next (branch (lessSigned (s.reg rs1) (s.reg rs2)) (relativeTarget s off) s)

/-- BGE, R255. -/
def execBge (rs1 rs2 : Reg) (off : BitVec 13) (s : State) : Result :=
  .next (branch (!lessSigned (s.reg rs1) (s.reg rs2)) (relativeTarget s off) s)

/-- BLTU, R256. -/
def execBltu (rs1 rs2 : Reg) (off : BitVec 13) (s : State) : Result :=
  .next (branch (lessUnsigned (s.reg rs1) (s.reg rs2)) (relativeTarget s off) s)

/-- BGEU, R257. -/
def execBgeu (rs1 rs2 : Reg) (off : BitVec 13) (s : State) : Result :=
  .next (branch (!lessUnsigned (s.reg rs1) (s.reg rs2)) (relativeTarget s off) s)

end Sys2Proof.Machine
end

