-- ==== Sys2Proof/Machine/MulDiv.lean ====
section
/-! DEFINITION. The M extension (spec/43). Products and quotients are exact integers, narrowed at the end (R298). -/

namespace Sys2Proof.Machine

/-- `[63:32]` of the two's complement of an exact product. -/
def highWord (product : Int) : Word := (BitVec.ofInt 64 product).extractLsb' 32 32

/-- The quotient of R294: toward zero, with the two defined corners. -/
def quotientSigned (a b : Word) : Word :=
  if b = 0#32 then 0xFFFFFFFF#32
  else if a = 0x80000000#32 ∧ b = 0xFFFFFFFF#32 then 0x80000000#32
  else BitVec.ofInt 32 (a.toInt.tdiv b.toInt)

/-- R295. -/
def quotientUnsigned (a b : Word) : Word :=
  if b = 0#32 then 0xFFFFFFFF#32 else BitVec.ofNat 32 (a.toNat / b.toNat)

/-- R296: the dividend minus divisor times truncated quotient. -/
def remainderSigned (a b : Word) : Word :=
  if b = 0#32 then a
  else if a = 0x80000000#32 ∧ b = 0xFFFFFFFF#32 then 0#32
  else BitVec.ofInt 32 (a.toInt - b.toInt * a.toInt.tdiv b.toInt)

/-- R297. -/
def remainderUnsigned (a b : Word) : Word :=
  if b = 0#32 then a else BitVec.ofNat 32 (a.toNat % b.toNat)

/-- MUL, R290. -/
def execMul (rd rs1 rs2 : Reg) (s : State) : Result :=
  .next (s.writeRd rd (BitVec.ofNat 32 ((s.reg rs1).toNat * (s.reg rs2).toNat)))

/-- MULH, R291. -/
def execMulh (rd rs1 rs2 : Reg) (s : State) : Result :=
  .next (s.writeRd rd (highWord ((s.reg rs1).toInt * (s.reg rs2).toInt)))

/-- MULHSU, R292. -/
def execMulhsu (rd rs1 rs2 : Reg) (s : State) : Result :=
  .next (s.writeRd rd (highWord ((s.reg rs1).toInt * ((s.reg rs2).toNat : Int))))

/-- MULHU, R293. -/
def execMulhu (rd rs1 rs2 : Reg) (s : State) : Result :=
  .next (s.writeRd rd (highWord (((s.reg rs1).toNat : Int) * ((s.reg rs2).toNat : Int))))

/-- DIV, R294. -/
def execDiv (rd rs1 rs2 : Reg) (s : State) : Result :=
  .next (s.writeRd rd (quotientSigned (s.reg rs1) (s.reg rs2)))

/-- DIVU, R295. -/
def execDivu (rd rs1 rs2 : Reg) (s : State) : Result :=
  .next (s.writeRd rd (quotientUnsigned (s.reg rs1) (s.reg rs2)))

/-- REM, R296. -/
def execRem (rd rs1 rs2 : Reg) (s : State) : Result :=
  .next (s.writeRd rd (remainderSigned (s.reg rs1) (s.reg rs2)))

/-- REMU, R297. -/
def execRemu (rd rs1 rs2 : Reg) (s : State) : Result :=
  .next (s.writeRd rd (remainderUnsigned (s.reg rs1) (s.reg rs2)))

end Sys2Proof.Machine
end

