-- ==== Sys2Proof/Machine/System.lean ====
section
/-! DEFINITION. System and privileged instructions (spec/46). -/

namespace Sys2Proof.Machine

/-- FENCE, R340: a no-op. -/
def execFence (_fm _pred _succ : BitVec 4) (_rs1 _rd : Reg) (s : State) : Result := .next s.advancePc

/-- FENCE.I, R341: a no-op. -/
def execFenceI (_imm : BitVec 12) (_rs1 _rd : Reg) (s : State) : Result := .next s.advancePc

/-- The exception ECALL raises in a mode (R342). -/
def ecallCause : Priv → Exc
  | .u => .ecallU
  | .s => .ecallS
  | .m => .ecallM

/-- ECALL, R342. -/
def execEcall (s : State) : Result := .next (raise (ecallCause s.priv) 0#32 s)

/-- EBREAK, R343: the end-of-simulation sentinel; no exception. `pc <- pc + 4` is the instruction's own effect;
the state machine then halts on the word and leaves the final pc open (`haltEbreak`, R420, U10, log 10). -/
def execEbreak (s : State) : Result := .next { s with flags.simEnd := true }.advancePc

/-- SRET, R344. -/
def execSret (s : State) : Result := .next (if s.priv = .u then raiseIllegal s else returnFromS s)

/-- MRET, R345. -/
def execMret (s : State) : Result := .next (if s.priv = .m then returnFromM s else raiseIllegal s)

/-- WFI, R346: a no-op in every mode. -/
def execWfi (s : State) : Result := .next s.advancePc

/-- SFENCE.VMA, R347: the PTW cache is emptied whatever the operands. -/
def execSfenceVma (_rs1 _rs2 : Reg) (s : State) : Result :=
  .next (if s.priv = .u then raiseIllegal s else s.ptwFlush.advancePc)

end Sys2Proof.Machine
end

