-- ==== Sys2Proof/Machine/Csr.lean ====
section
/-! DEFINITION. The CSR file: names and numbers (R30, R31), the access check (R32), reads through views and constants
(R33) and writes through masks (R34). -/

namespace Sys2Proof.Machine

/-- The 23 CSR names, in the index order of R31. -/
inductive Csr where
  | mtvec
  | mepc
  | mcause
  | mie
  | mip
  | mtval
  | mscratch
  | mstatus
  | mideleg
  | medeleg
  | sepc
  | stvec
  | scause
  | sscratch
  | stval
  | sstatus
  | sie
  | sip
  | satp
  | mhartid
  | misa
  | time
  | timeh
  deriving DecidableEq, Repr

/-- `cvt_number_to_csr` (R31): the mapping table from the 12-bit number; every other number names no CSR. -/
def csrOfNumber (n : BitVec 12) : Option Csr :=
  match n with
  | 0x305#12 => some .mtvec
  | 0x341#12 => some .mepc
  | 0x342#12 => some .mcause
  | 0x304#12 => some .mie
  | 0x344#12 => some .mip
  | 0x343#12 => some .mtval
  | 0x340#12 => some .mscratch
  | 0x300#12 => some .mstatus
  | 0x303#12 => some .mideleg
  | 0x302#12 => some .medeleg
  | 0x141#12 => some .sepc
  | 0x105#12 => some .stvec
  | 0x142#12 => some .scause
  | 0x140#12 => some .sscratch
  | 0x143#12 => some .stval
  | 0x100#12 => some .sstatus
  | 0x104#12 => some .sie
  | 0x144#12 => some .sip
  | 0x180#12 => some .satp
  | 0xF14#12 => some .mhartid
  | 0x301#12 => some .misa
  | 0xC01#12 => some .time
  | 0xC81#12 => some .timeh
  | _ => none

def mstatusMask : Word := 0x000E19AA#32
def sstatusMask : Word := 0x000C0122#32
def mieMask : Word := 0x00000AAA#32
def sieMask : Word := 0x00000222#32
def medelegMask : Word := 0x0000B3FF#32
def midelegMask : Word := 0x00000222#32
def tvecMask : Word := 0xFFFFFFFD#32
def epcMask : Word := 0xFFFFFFFC#32

/-- The bits of `v` under `mask`, the other bits of `old` (R34). -/
def mergeMasked (old v mask : Word) : Word := (old &&& ~~~mask) ||| (v &&& mask)

/-- A draw from the time source: any 32-bit value, a new one for every read (D16, U9, log 6). -/
def drawTime (s : State) : Word × State := (Config.timeSource s.draws, { s with draws := s.draws + 1 })

/-- `CsrRead` (R33). Only a draw changes anything, and that only the model's own counter. -/
def csrRead (c : Csr) (s : State) : Word × State :=
  match c with
  | .mtvec => (s.csr.mtvec, s)
  | .mepc => (s.csr.mepc, s)
  | .mcause => (s.csr.mcause, s)
  | .mie => (s.csr.mie, s)
  | .mip => (s.csr.mip, s)
  | .mtval => (s.csr.mtval, s)
  | .mscratch => (s.csr.mscratch, s)
  | .mstatus => (s.csr.mstatus, s)
  | .mideleg => (s.csr.mideleg, s)
  | .medeleg => (s.csr.medeleg, s)
  | .sepc => (s.csr.sepc, s)
  | .stvec => (s.csr.stvec, s)
  | .scause => (s.csr.scause, s)
  | .sscratch => (s.csr.sscratch, s)
  | .stval => (s.csr.stval, s)
  | .sstatus => (s.csr.mstatus &&& sstatusMask, s)
  | .sie => (s.csr.mie &&& sieMask, s)
  | .sip => (s.csr.mip &&& sieMask, s)
  | .satp => (s.csr.satp, s)
  | .mhartid => (Config.hartId, s)
  | .misa => (Config.misaValue, s)
  | .time => drawTime s
  | .timeh => drawTime s

/-- The value `mstatus` takes on a write: a reserved MPP of 10 keeps the old MPP (R34). -/
def mstatusWritten (old v : Word) : Word :=
  let new := mergeMasked old v mstatusMask
  if mppOf v = 0b10#2 then setMpp new (mppOf old) else new

/-- `CsrWrite` (R34): stored under the register's mask; a view writes the register it views; a `satp` write flushes the
PTW cache; a `misa` write has no effect. `mhartid`, `time` and `timeh` are read-only by number and R32 raises before a
write reaches here. -/
def csrWrite (c : Csr) (v : Word) (s : State) : State :=
  match c with
  | .mtvec => { s with csr.mtvec := v &&& tvecMask }
  | .mepc => { s with csr.mepc := v &&& epcMask }
  | .mcause => { s with csr.mcause := v }
  | .mie => { s with csr.mie := v &&& mieMask }
  | .mip => { s with csr.mip := mergeMasked s.csr.mip v Config.mipWmask }
  | .mtval => { s with csr.mtval := v }
  | .mscratch => { s with csr.mscratch := v }
  | .mstatus => { s with csr.mstatus := mstatusWritten s.csr.mstatus v }
  | .mideleg => { s with csr.mideleg := v &&& midelegMask }
  | .medeleg => { s with csr.medeleg := v &&& medelegMask }
  | .sepc => { s with csr.sepc := v &&& epcMask }
  | .stvec => { s with csr.stvec := v &&& tvecMask }
  | .scause => { s with csr.scause := v }
  | .sscratch => { s with csr.sscratch := v }
  | .stval => { s with csr.stval := v }
  | .sstatus => { s with csr.mstatus := mergeMasked s.csr.mstatus v sstatusMask }
  | .sie => { s with csr.mie := mergeMasked s.csr.mie v sieMask }
  | .sip => { s with csr.mip := mergeMasked s.csr.mip v Config.sipWmask }
  | .satp => { s with csr.satp := v }.ptwFlush
  | .mhartid | .misa | .time | .timeh => s

/-- The lowest privilege that may access a CSR number: bits 9:8, compared as integers with priv (R32). -/
def csrPrivOk (n : BitVec 12) (p : Priv) : Bool := decide ((n.extractLsb' 8 2).toNat ≤ p.toBits.toNat)

/-- Read-only by number: bits 11:10 are 11 (R31, R32). -/
def csrReadOnly (n : BitVec 12) : Bool := n.extractLsb' 10 2 == 0b11#2

/-- The CSR an access reaches, or none if R32 makes it illegal. -/
def csrAccess (n : BitVec 12) (writes : Bool) (p : Priv) : Option Csr :=
  if csrPrivOk n p && !(writes && csrReadOnly n) then csrOfNumber n else none

/-- The common operation of the six Zicsr instructions (R327). -/
def csrOp (n : BitVec 12) (rd : Reg) (writes : Bool) (new : Word → Word) (s : State) : State :=
  match csrAccess n writes s.priv with
  | none => raiseIllegal s
  | some c =>
    let r := csrRead c s
    let s1 := if writes then csrWrite c (new r.1) r.2 else r.2
    { s1.writeRd rd r.1 with flags.isCsr := true }

end Sys2Proof.Machine
end

