-- ==== Sys2Proof/Machine/Float.lean ====
section
/-! DEFINITION. IEEE 754-2008 binary32 arithmetic as R385, R386 and the rules of spec/47 state it (log 21). Every finite
binary32 value is an integer multiple of 2^-149, so exact values are integers (or ratios of them) in that unit, and
rounding is done once, on the exact value. -/

namespace Sys2Proof.Machine

/-- The canonical NaN (R14, R385). -/
def canonicalNan : Word := 0x7FC00000#32

def fSign (v : Word) : Bool := v.getLsbD 31
def fExp (v : Word) : Nat := (v.extractLsb' 23 8).toNat
def fFrac (v : Word) : Nat := (v.extractLsb' 0 23).toNat

/-- R385. -/
def isNan (v : Word) : Bool := fExp v == 0xFF && fFrac v != 0

def isInf (v : Word) : Bool := fExp v == 0xFF && fFrac v == 0

def isZero (v : Word) : Bool := fExp v == 0 && fFrac v == 0

/-- The magnitude in units of 2^-149 (R386). For an infinity the same formula gives 2^277 units, above every finite
value, which is what a comparison needs. -/
def magnitude (v : Word) : Nat := if fExp v = 0 then fFrac v else (2 ^ 23 + fFrac v) * 2 ^ (fExp v - 1)

/-- The value in units of 2^-149, with its sign. -/
def fValue (v : Word) : Int := if fSign v then -(magnitude v : Int) else (magnitude v : Int)

/-- A word with a given sign bit. -/
def withSign (neg : Bool) (v : Word) : Word := if neg then v ||| 0x80000000#32 else v

def signedZero (neg : Bool) : Word := withSign neg 0#32

def signedInf (neg : Bool) : Word := withSign neg 0x7F800000#32

/-- Negation of a datum: the sign bit flipped. -/
def fNegate (v : Word) : Word := v ^^^ 0x80000000#32

/-- Where an exact value lies between a grid point and the next. -/
inductive Position where
  | exact
  | below
  | half
  | above
  deriving DecidableEq, Repr

/-- The position of a remainder `r` of a division by `d`. -/
def positionOf (r d : Nat) : Position :=
  if r = 0 then .exact else if 2 * r < d then .below else if 2 * r = d then .half else .above

/-- Whether rounding goes to the larger of the two neighbours in magnitude (R361, R386). -/
def roundsAway (rm : Rounding) (neg : Bool) (q : Nat) (p : Position) : Bool :=
  match p, rm with
  | .exact, _ => false
  | _, .rtz => false
  | _, .rdn => neg
  | _, .rup => !neg
  | .above, .rne | .above, .rmm => true
  | .half, .rne => q % 2 == 1
  | .half, .rmm => true
  | .below, .rne | .below, .rmm => false

def roundedMagnitude (rm : Rounding) (neg : Bool) (q : Nat) (p : Position) : Nat :=
  if roundsAway rm neg q p then q + 1 else q

/-- The result of an overflow (R386): infinity in the modes that go there, else the largest finite value. -/
def overflowResult (rm : Rounding) (neg : Bool) : Word :=
  match rm with
  | .rne | .rmm => signedInf neg
  | .rtz => withSign neg 0x7F7FFFFF#32
  | .rdn => if neg then signedInf neg else withSign neg 0x7F7FFFFF#32
  | .rup => if neg then withSign neg 0x7F7FFFFF#32 else signedInf neg

/-- The binary32 result of `q * 2^e` units plus a fraction at position `p`, with `2^23 <= q < 2^24` or `e = 0`:
rounded first, then the overflow threshold 2^128 (2^277 units) applied (R386). `e * 2^23 + q` is the encoding. -/
def assemble (rm : Rounding) (neg : Bool) (q e : Nat) (p : Position) : Word :=
  let q' := roundedMagnitude rm neg q p
  if 2 ^ 277 ≤ q' * 2 ^ e then overflowResult rm neg else withSign neg (BitVec.ofNat 32 (e * 2 ^ 23 + q'))

/-- `round_rm` of the nonzero real ±num/den units (R386): the grid spacing is 2^e units, 24 significant bits, never
below one unit. -/
def roundRatio (rm : Rounding) (neg : Bool) (num den : Nat) : Word :=
  let e := Nat.log2 (num / den) - 23
  assemble rm neg (num / (den * 2 ^ e)) e (positionOf (num % (den * 2 ^ e)) (den * 2 ^ e))

/-- The sign of an exact zero sum (R386): the common sign of the operands, else + except under RDN. -/
def zeroSum (rm : Rounding) (negA negB : Bool) : Word :=
  if negA == negB then signedZero negA else signedZero (rm == .rdn)

/-- An exact sum of num/den units rounded; `negA`, `negB` are the operands' signs, for an exact zero. -/
def roundSum (rm : Rounding) (negA negB : Bool) (num : Int) (den : Nat) : Word :=
  if num = 0 then zeroSum rm negA negB else roundRatio rm (decide (num < 0)) num.natAbs den

/-- FADD.S (R362). -/
def fAdd (rm : Rounding) (a b : Word) : Word :=
  if isNan a || isNan b then canonicalNan
  else if isInf a then (if isInf b && fSign a != fSign b then canonicalNan else a)
  else if isInf b then b
  else roundSum rm (fSign a) (fSign b) (fValue a + fValue b) 1

/-- FSUB.S (R363): FADD.S with b negated. -/
def fSub (rm : Rounding) (a b : Word) : Word := fAdd rm a (fNegate b)

/-- FMUL.S (R364). -/
def fMul (rm : Rounding) (a b : Word) : Word :=
  let neg := fSign a != fSign b
  if isNan a || isNan b then canonicalNan
  else if (isInf a && isZero b) || (isZero a && isInf b) then canonicalNan
  else if isInf a || isInf b then signedInf neg
  else if isZero a || isZero b then signedZero neg
  else roundRatio rm neg (magnitude a * magnitude b) (2 ^ 149)

/-- FDIV.S (R365). -/
def fDiv (rm : Rounding) (a b : Word) : Word :=
  let neg := fSign a != fSign b
  if isNan a || isNan b then canonicalNan
  else if (isInf a && isInf b) || (isZero a && isZero b) then canonicalNan
  else if isInf a || isZero b then signedInf neg
  else if isInf b || isZero a then signedZero neg
  else roundRatio rm neg (magnitude a * 2 ^ 149) (magnitude b)

/-- One bit of the integer square root: keep bit `k` if the square stays at or below `n`. -/
def isqrtFrom : Nat → Nat → Nat → Nat
  | 0, _, r => r
  | k + 1, n, r => isqrtFrom k n (if (r + 2 ^ k) * (r + 2 ^ k) ≤ n then r + 2 ^ k else r)

/-- The integer square root of a number below 2^428: floor(sqrt n). -/
def isqrt (n : Nat) : Nat := isqrtFrom 214 n 0

/-- The position of sqrt(n) between q * 2^e and (q + 1) * 2^e. -/
def sqrtPosition (n q e : Nat) : Position :=
  if q * q * 4 ^ e = n then .exact
  else if 4 * n < (2 * q + 1) * (2 * q + 1) * 4 ^ e then .below
  else if 4 * n = (2 * q + 1) * (2 * q + 1) * 4 ^ e then .half
  else .above

/-- FSQRT.S (R366): the root of `m` units is sqrt(m * 2^149) units. -/
def fSqrt (rm : Rounding) (a : Word) : Word :=
  if isNan a then canonicalNan
  else if isZero a then a
  else if fSign a then canonicalNan
  else if isInf a then a
  else
    let n := magnitude a * 2 ^ 149
    let e := Nat.log2 (isqrt n) - 23
    let q := isqrt n / 2 ^ e
    assemble rm false q e (sqrtPosition n q e)

/-- FMADD.S (R380): the product and the sum exact, one rounding. -/
def fMulAdd (rm : Rounding) (a b c : Word) : Word :=
  let negP := fSign a != fSign b
  if isNan a || isNan b || isNan c then canonicalNan
  else if (isInf a && isZero b) || (isZero a && isInf b) then canonicalNan
  else if isInf a || isInf b then
    (if isInf c && fSign c != negP then canonicalNan else signedInf negP)
  else if isInf c then c
  else roundSum rm negP (fSign c) (fValue a * fValue b + fValue c * 2 ^ 149) (2 ^ 149)

/-- FMIN.S (R370). -/
def fMin (a b : Word) : Word :=
  if isNan a && isNan b then canonicalNan
  else if isNan a then b
  else if isNan b then a
  else if fValue a = fValue b then (if fSign a then a else if fSign b then b else a)
  else if fValue a < fValue b then a
  else b

/-- FMAX.S (R371). -/
def fMax (a b : Word) : Word :=
  if isNan a && isNan b then canonicalNan
  else if isNan a then b
  else if isNan b then a
  else if fValue a = fValue b then (if !fSign a then a else if !fSign b then b else a)
  else if fValue b < fValue a then a
  else b

/-- A finite value rounded to an integer (R372, R373). -/
def roundToInt (rm : Rounding) (a : Word) : Int :=
  let q := roundedMagnitude rm (fSign a) (magnitude a / 2 ^ 149) (positionOf (magnitude a % 2 ^ 149) (2 ^ 149))
  if fSign a then -(q : Int) else (q : Int)

/-- FCVT.W.S (R372). -/
def fToSigned (rm : Rounding) (a : Word) : Word :=
  if isNan a then 0x7FFFFFFF#32
  else if isInf a then (if fSign a then 0x80000000#32 else 0x7FFFFFFF#32)
  else if 2 ^ 31 - 1 < roundToInt rm a then 0x7FFFFFFF#32
  else if roundToInt rm a < -2 ^ 31 then 0x80000000#32
  else BitVec.ofInt 32 (roundToInt rm a)

/-- FCVT.WU.S (R373). -/
def fToUnsigned (rm : Rounding) (a : Word) : Word :=
  if isNan a then 0xFFFFFFFF#32
  else if isInf a then (if fSign a then 0x00000000#32 else 0xFFFFFFFF#32)
  else if 2 ^ 32 - 1 < roundToInt rm a then 0xFFFFFFFF#32
  else if roundToInt rm a < 0 then 0x00000000#32
  else BitVec.ofInt 32 (roundToInt rm a)

/-- FCVT.S.W, FCVT.S.WU (R374, R375): an integer rounded to binary32. -/
def fOfInt (rm : Rounding) (v : Int) : Word :=
  if v = 0 then 0#32 else roundRatio rm (decide (v < 0)) (v.natAbs * 2 ^ 149) 1

/-- FEQ.S (R376): +0 = -0. -/
def fEq (a b : Word) : Bool := !isNan a && !isNan b && fValue a == fValue b

/-- FLT.S (R377). -/
def fLt (a b : Word) : Bool := !isNan a && !isNan b && decide (fValue a < fValue b)

/-- FLE.S (R378). -/
def fLe (a b : Word) : Bool := !isNan a && !isNan b && decide (fValue a ≤ fValue b)

/-- The bit FCLASS.S sets (R379). -/
def fClassBit (a : Word) : Nat :=
  if isNan a then (if a.getLsbD 22 then 9 else 8)
  else if isInf a then (if fSign a then 0 else 7)
  else if isZero a then (if fSign a then 3 else 4)
  else if fExp a = 0 then (if fSign a then 2 else 5)
  else (if fSign a then 1 else 6)

/-- FCLASS.S (R379). -/
def fClass (a : Word) : Word := 1#32 <<< fClassBit a

end Sys2Proof.Machine
end

