-- ==== Sys2Proof/Machine/Zfinx.lean ====
section
/-! DEFINITION. Zfinx (spec/47): operands and results in the integer registers (R360), no status flags (R384). -/

namespace Sys2Proof.Machine

/-- An instruction with a rounding mode: a reserved `rm` is an illegal instruction before anything is written (R361,
log 31). -/
def withRounding (rm : BitVec 3) (rd : Reg) (f : Rounding → Word) (s : State) : State :=
  match roundingMode rm with
  | none => raiseUndecodable s
  | some r => s.writeRd rd (f r)

/-- A sign bit put on the other 31 bits of a datum (R367-R369). -/
def injectSign (neg : Bool) (a : Word) : Word := withSign neg (a &&& 0x7FFFFFFF#32)

/-- FADD.S, R362. -/
def execFaddS (rd rs1 rs2 : Reg) (rm : BitVec 3) (s : State) : Result :=
  .next (withRounding rm rd (fun r => fAdd r (s.reg rs1) (s.reg rs2)) s)

/-- FSUB.S, R363. -/
def execFsubS (rd rs1 rs2 : Reg) (rm : BitVec 3) (s : State) : Result :=
  .next (withRounding rm rd (fun r => fSub r (s.reg rs1) (s.reg rs2)) s)

/-- FMUL.S, R364. -/
def execFmulS (rd rs1 rs2 : Reg) (rm : BitVec 3) (s : State) : Result :=
  .next (withRounding rm rd (fun r => fMul r (s.reg rs1) (s.reg rs2)) s)

/-- FDIV.S, R365. -/
def execFdivS (rd rs1 rs2 : Reg) (rm : BitVec 3) (s : State) : Result :=
  .next (withRounding rm rd (fun r => fDiv r (s.reg rs1) (s.reg rs2)) s)

/-- FSQRT.S, R366. -/
def execFsqrtS (rd rs1 : Reg) (rm : BitVec 3) (s : State) : Result :=
  .next (withRounding rm rd (fun r => fSqrt r (s.reg rs1)) s)

/-- FSGNJ.S, R367. -/
def execFsgnjS (rd rs1 rs2 : Reg) (s : State) : Result :=
  .next (s.writeRd rd (injectSign (fSign (s.reg rs2)) (s.reg rs1)))

/-- FSGNJN.S, R368. -/
def execFsgnjnS (rd rs1 rs2 : Reg) (s : State) : Result :=
  .next (s.writeRd rd (injectSign (!fSign (s.reg rs2)) (s.reg rs1)))

/-- FSGNJX.S, R369. -/
def execFsgnjxS (rd rs1 rs2 : Reg) (s : State) : Result :=
  .next (s.writeRd rd (injectSign (fSign (s.reg rs1) != fSign (s.reg rs2)) (s.reg rs1)))

/-- FMIN.S, R370. -/
def execFminS (rd rs1 rs2 : Reg) (s : State) : Result :=
  .next (s.writeRd rd (fMin (s.reg rs1) (s.reg rs2)))

/-- FMAX.S, R371. -/
def execFmaxS (rd rs1 rs2 : Reg) (s : State) : Result :=
  .next (s.writeRd rd (fMax (s.reg rs1) (s.reg rs2)))

/-- FCVT.W.S, R372. -/
def execFcvtWS (rd rs1 : Reg) (rm : BitVec 3) (s : State) : Result :=
  .next (withRounding rm rd (fun r => fToSigned r (s.reg rs1)) s)

/-- FCVT.WU.S, R373. -/
def execFcvtWuS (rd rs1 : Reg) (rm : BitVec 3) (s : State) : Result :=
  .next (withRounding rm rd (fun r => fToUnsigned r (s.reg rs1)) s)

/-- FCVT.S.W, R374. -/
def execFcvtSW (rd rs1 : Reg) (rm : BitVec 3) (s : State) : Result :=
  .next (withRounding rm rd (fun r => fOfInt r (s.reg rs1).toInt) s)

/-- FCVT.S.WU, R375. -/
def execFcvtSWu (rd rs1 : Reg) (rm : BitVec 3) (s : State) : Result :=
  .next (withRounding rm rd (fun r => fOfInt r ((s.reg rs1).toNat : Int)) s)

/-- FEQ.S, R376. -/
def execFeqS (rd rs1 rs2 : Reg) (s : State) : Result :=
  .next (s.writeRd rd (boolWord (fEq (s.reg rs1) (s.reg rs2))))

/-- FLT.S, R377. -/
def execFltS (rd rs1 rs2 : Reg) (s : State) : Result :=
  .next (s.writeRd rd (boolWord (fLt (s.reg rs1) (s.reg rs2))))

/-- FLE.S, R378. -/
def execFleS (rd rs1 rs2 : Reg) (s : State) : Result :=
  .next (s.writeRd rd (boolWord (fLe (s.reg rs1) (s.reg rs2))))

/-- FCLASS.S, R379. -/
def execFclassS (rd rs1 : Reg) (s : State) : Result := .next (s.writeRd rd (fClass (s.reg rs1)))

/-- FMADD.S, R380. -/
def execFmaddS (rd rs1 rs2 rs3 : Reg) (rm : BitVec 3) (s : State) : Result :=
  .next (withRounding rm rd (fun r => fMulAdd r (s.reg rs1) (s.reg rs2) (s.reg rs3)) s)

/-- FMSUB.S, R381. -/
def execFmsubS (rd rs1 rs2 rs3 : Reg) (rm : BitVec 3) (s : State) : Result :=
  .next (withRounding rm rd (fun r => fMulAdd r (s.reg rs1) (s.reg rs2) (fNegate (s.reg rs3))) s)

/-- FNMSUB.S, R382. -/
def execFnmsubS (rd rs1 rs2 rs3 : Reg) (rm : BitVec 3) (s : State) : Result :=
  .next (withRounding rm rd (fun r => fMulAdd r (fNegate (s.reg rs1)) (s.reg rs2) (s.reg rs3)) s)

/-- FNMADD.S, R383. -/
def execFnmaddS (rd rs1 rs2 rs3 : Reg) (rm : BitVec 3) (s : State) : Result :=
  .next (withRounding rm rd (fun r => fMulAdd r (fNegate (s.reg rs1)) (s.reg rs2) (fNegate (s.reg rs3))) s)

end Sys2Proof.Machine
end

