-- ==== Sys2Proof/Machine/Zicsr.lean ====
section
/-! DEFINITION. The six CSR instructions (spec/45) over `csrOp` (R327). Which of them write is R326: CSRRW and CSRRWI
always, the others iff the register number or the immediate is not 0. -/

namespace Sys2Proof.Machine

/-- CSRRW, R320. -/
def execCsrrw (rd rs1 : Reg) (csr : BitVec 12) (s : State) : Result :=
  .next (csrOp csr rd true (fun _ => s.reg rs1) s)

/-- CSRRS, R321. -/
def execCsrrs (rd rs1 : Reg) (csr : BitVec 12) (s : State) : Result :=
  .next (csrOp csr rd (rs1 != 0#5) (fun old => old ||| s.reg rs1) s)

/-- CSRRC, R322. -/
def execCsrrc (rd rs1 : Reg) (csr : BitVec 12) (s : State) : Result :=
  .next (csrOp csr rd (rs1 != 0#5) (fun old => old &&& ~~~(s.reg rs1)) s)

/-- CSRRWI, R323. -/
def execCsrrwi (rd : Reg) (uimm : BitVec 5) (csr : BitVec 12) (s : State) : Result :=
  .next (csrOp csr rd true (fun _ => zext uimm) s)

/-- CSRRSI, R324. -/
def execCsrrsi (rd : Reg) (uimm : BitVec 5) (csr : BitVec 12) (s : State) : Result :=
  .next (csrOp csr rd (uimm != 0#5) (fun old => old ||| zext uimm) s)

/-- CSRRCI, R325. -/
def execCsrrci (rd : Reg) (uimm : BitVec 5) (csr : BitVec 12) (s : State) : Result :=
  .next (csrOp csr rd (uimm != 0#5) (fun old => old &&& ~~~(zext uimm)) s)

end Sys2Proof.Machine
end

