-- ==== Sys2Proof/Machine/Cycle.lean ====
section
/-! DEFINITION. The cycle level: one clock tick of the execution state machine and the AXI master (spec/50, spec/51),
as R401 orders it. The slave's signals are an input, unconstrained. -/

namespace Sys2Proof.Machine

/-! ## Master outputs, phase (a) (R452-R456) -/

/-- `(master << 2) | (id & 3)` (R452). -/
def wireId (master id : BitVec 2) : BitVec 4 := master.setWidth 4 <<< 2 ||| id.setWidth 4

/-- A read slot that wants the AR channel. -/
def ReadReq.unissued (q : ReadReq) : Bool := q.active && !q.issued

/-- The address of a slot's next beat (R461, R464). -/
def beatAddress (addr : Word) (beatsSeen : Nat) : Word := addr + BitVec.ofNat 32 (4 * beatsSeen)

/-- The AR channel as one read slot drives it, and the R side's ready (R453, R455). -/
def arChannel (q : ReadReq) (o : AxiOut) : AxiOut :=
  { o with arvalid := true, araddr := q.addr, arid := wireId q.master q.id
           arlen := BitVec.ofNat 8 (q.totalBeats - 1), arsize := 2#3, arburst := 0b01#2 }

/-- AR: the first of fetch, load, MMU that is active and not issued (R453). -/
def driveAr (b : Bus) (o : AxiOut) : AxiOut :=
  if b.fetchReq.unissued then arChannel b.fetchReq o
  else if b.loadReq.unissued then arChannel b.loadReq o
  else if b.mmuReq.unissued then arChannel b.mmuReq o
  else o

/-- AW: until its own handshake (R454). -/
def driveAw (q : WriteReq) (o : AxiOut) : AxiOut :=
  if q.active && !q.issued then
    { o with awvalid := true, awaddr := q.addr, awid := wireId q.master q.id
             awlen := BitVec.ofNat 8 (q.totalBeats - 1), awsize := 2#3, awburst := 0b01#2 }
  else o

/-- W: until its own handshake (R454). -/
def driveW (q : WriteReq) (o : AxiOut) : AxiOut :=
  if q.active && decide (q.beatsSeen < q.totalBeats) then
    { o with wvalid := true, wdata := q.wdata.getD q.beatsSeen 0#32, wstrb := q.wstrb
             wlast := q.beatsSeen + 1 == q.totalBeats }
  else o

/-- `MasterOutputs(slots)`: a function of the slots at the start of the step (R456). -/
def masterOutputs (b : Bus) : AxiOut :=
  { driveW b.writeReq (driveAw b.writeReq (driveAr b .idle)) with
      rready := b.fetchReq.active || b.loadReq.active || b.mmuReq.active
      bready := b.writeReq.active }

/-- The AR handshake sets `issued` of the slot that drove the channel (R458). -/
def arHandshake (arready : Bool) (b : Bus) : Bus :=
  if !arready then b
  else if b.fetchReq.unissued then { b with fetchReq.issued := true }
  else if b.loadReq.unissued then { b with loadReq.issued := true }
  else if b.mmuReq.unissued then { b with mmuReq.issued := true }
  else b

/-- The AW handshake (R462). -/
def awHandshake (awready : Bool) (b : Bus) : Bus :=
  if b.writeReq.active && !b.writeReq.issued && awready then { b with writeReq.issued := true } else b

/-! ## Responses, phases (b) and (c) (R461-R465, R441) -/

/-- A slot that a returned beat's id names (R461). -/
def ReadReq.matches (q : ReadReq) (rid : BitVec 4) : Bool := q.active && wireId q.master q.id == rid

/-- What a beat does to its slot (R461). -/
def ReadReq.capture (q : ReadReq) (inp : AxiIn) : ReadReq :=
  { q with beatsSeen := q.beatsSeen + 1, respErr := q.respErr || inp.rresp != 0#2, respSeen := q.respSeen || inp.rlast }

/-- The whole word of a beat into the mirror, without strobes (R461). -/
def State.mirrorBeat (s : State) (q : ReadReq) (data : Word) : State :=
  { s with mirror := s.mirror.writeWord (beatAddress q.addr q.beatsSeen) data }

/-- R beat capture (R461): routed by `rid`; a beat that matches no slot is dropped (D58). -/
def captureR (inp : AxiIn) (o : AxiOut) (s : State) : State :=
  if !(inp.rvalid && o.rready) then s
  else if s.bus.fetchReq.matches inp.rid then
    { s.mirrorBeat s.bus.fetchReq inp.rdata with bus.fetchReq := s.bus.fetchReq.capture inp }
  else if s.bus.loadReq.matches inp.rid then
    { s.mirrorBeat s.bus.loadReq inp.rdata with bus.loadReq := s.bus.loadReq.capture inp }
  else if s.bus.mmuReq.matches inp.rid then
    { s.mirrorBeat s.bus.mmuReq inp.rdata with
        bus := { s.bus with mmuReq := s.bus.mmuReq.capture inp, mmuHook.data := inp.rdata } }
  else s

/-- The W beat of a step, if its channel handshakes: byte address, data, strobes (R464). -/
def wBeat (inp : AxiIn) (o : AxiOut) (s : State) : Option (Word × Word × BitVec 4) :=
  if o.wvalid && inp.wready then
    some (beatAddress s.bus.writeReq.addr s.bus.writeReq.beatsSeen, o.wdata, o.wstrb)
  else none

/-- The UART event of a step (R465). -/
def uartEvent (inp : AxiIn) (o : AxiOut) (s : State) : Option Byte :=
  (wBeat inp o s).bind fun (ba, data, strb) => uartByte s.cfg ba data strb

/-- The W handshake: the mirror under the strobes, the UART, `beats_seen` (R464, R465). -/
def captureW (inp : AxiIn) (o : AxiOut) (s : State) : State :=
  match wBeat inp o s with
  | some (ba, data, strb) =>
    { { s with mirror := s.mirror.writeLanes ba data strb }.emitUart ba data strb with
        bus.writeReq.beatsSeen := s.bus.writeReq.beatsSeen + 1 }
  | none => s

/-- B response capture; another `bid` is accepted and dropped (R463). -/
def captureB (inp : AxiIn) (o : AxiOut) (s : State) : State :=
  if inp.bvalid && o.bready && inp.bid == wireId s.bus.writeReq.master s.bus.writeReq.id then
    { s with bus.writeReq := { s.bus.writeReq with
        respSeen := true, respErr := s.bus.writeReq.respErr || inp.bresp != 0#2 } }
  else s

/-- MMU completion (R441). -/
def completeMmu (s : State) : State :=
  if s.bus.mmuReq.active && s.bus.mmuReq.issued && s.bus.mmuReq.respSeen then
    { s with bus := { s.bus with
        mmuReq.active := false
        mmuHook := { s.bus.mmuHook with responseValid := true, fault := s.bus.mmuReq.respErr } } }
  else s

/-- Phases (a) to (c). -/
def busPhases (inp : AxiIn) (s : State) : State :=
  let o := masterOutputs s.bus
  let s1 := { s with bus := { awHandshake inp.awready (arHandshake inp.arready s.bus) with axiIn := inp, axiOut := o } }
  completeMmu (captureB inp o (captureW inp o (captureR inp o s1)))

/-! ## Arming a slot (R459) -/

/-- `ceil((total_size + 1) / 4)`: always 1. -/
def beatsOf (totalSize : BitVec 2) : Nat := (totalSize.toNat + 4) / 4

def ReadReq.arm (master id : BitVec 2) (addr : Word) (totalSize : BitVec 2) : ReadReq :=
  { active := true, issued := false, master := master, id := id, addr := addr, totalSize := totalSize
    totalBeats := beatsOf totalSize, beatsSeen := 0, respSeen := false, respErr := false }

def WriteReq.arm (id : BitVec 2) (addr : Word) (totalSize : BitVec 2) (data : Word) (strb : BitVec 4) : WriteReq :=
  { active := true, issued := false, master := Config.wrMaster, id := id, addr := addr, totalSize := totalSize
    totalBeats := beatsOf totalSize, beatsSeen := 0, respSeen := false, respErr := false, wdata := [data]
    wstrb := strb }

/-! ## Translation at the cycle level (R118, R440) -/

/-- `MmuHookRead` (R440): three-valued. -/
def mmuHookRead (s : State) (pa : Word) : PteRead × State :=
  let h := s.bus.mmuHook
  if h.responseValid && h.addr == pa then
    (if h.fault then .fault else .ok h.data,
     { s with bus.mmuHook := { h with responseValid := false, pending := false } })
  else if h.pending then (.pending, s)
  else
    (.pending,
     { s with bus := { s.bus with
         mmuHook := { pending := true, responseValid := false, addr := pa, data := 0#32, fault := false }
         mmuReq := .arm 2#2 Config.mmuTxnId pa 3#2 } })

/-- `PteRead` at the cycle level (R118). -/
def pteReadHook (s : State) (pa : Word) : PteRead × State :=
  if !s.inBounds pa then (.fault, s)
  else
    match s.ptwLookup pa with
    | some d => (.ok d, s)
    | none =>
      match mmuHookRead s pa with
      | (.ok d, s1) => (.ok d, s1.ptwFill pa d)
      | r => r

/-- `Translate` at the cycle level (R110). -/
def translateCycle (s : State) (va : Word) (ty : Access) : Translation × State := translateWith pteReadHook s va ty

/-! ## Stages (R402-R425) -/

/-- `stage` replaced. -/
def State.goto (s : State) (st : Stage) : State := { s with stage := st }

/-- A fetch that failed: its flag, `inst_word = 0`, Execute (R402, R405). -/
def fetchFailed (s : State) : State := { s with instWord := 0#32, stage := .execute }

/-- The first step of an instruction clears the fault flags and `memop.kind` (R402). -/
def beginFetch (s : State) : State :=
  if s.flags.translationPending then s else { s.clearFaultFlags with memop.kind := .none }

/-- R402. -/
def stagePrepareFetch (s : State) : State :=
  let s1 := { beginFetch s with flags.translationPending := false }
  match translateCycle s1 s1.pc .fetch with
  | (.pending, s2) => { s2 with flags.translationPending := true }
  | (.pageFault, s2) => fetchFailed (s2.setPageFault .fetch)
  | (.accessFault, s2) => fetchFailed (s2.setAccessFault .fetch)
  | (.ok pa, s2) =>
    if s2.inBounds pa then
      { s2 with fetchPaddr := pa, bus.fetchReq := .arm 0#2 0#2 pa 3#2, stage := .waitFetch }
    else fetchFailed (s2.setAccessFault .fetch)

/-- R405: stage completion. -/
def stageWaitFetch (s : State) : State :=
  if s.bus.fetchReq.issued && s.bus.fetchReq.respSeen then
    let s1 := { s with bus.fetchReq.active := false }
    if s1.bus.fetchReq.respErr then fetchFailed (s1.setAccessFault .fetch)
    else { s1 with instWord := s1.mirror.readWord s1.fetchPaddr, stage := .prepareData }
  else s

/-- The request of a data access is armed (R410). -/
def armData (m : MemReq) (pa : Word) (s : State) : State :=
  let s1 := (latchRequest m pa s).goto .waitData
  match m.kind with
  | .store =>
    { s1 with bus.writeReq := .arm 1#2 pa (BitVec.ofNat 2 (m.size - 1)) (laneData m.size m.data pa)
                                (laneStrobe m.size pa) }
  | .load => { s1 with bus.loadReq := .arm 1#2 1#2 pa (BitVec.ofNat 2 (m.size - 1)) }
  | .amo => { s1 with bus.loadReq := .arm 1#2 1#2 pa 3#2 }
  | .none => s1

/-- The memory request of the fetched word; none for a word that decodes to nothing (R408, D50). -/
def preDecodeWord (s : State) : Option MemReq :=
  match decode s.instWord with
  | .ok i => preDecode i s
  | .error _ => none

/-- R410. -/
def stagePrepareData (s : State) : State :=
  let s1 := { s with flags.translationPending := false }
  match preDecodeWord s1 with
  | none => s1.goto .execute
  | some m =>
    if misaligned m.size m.va then (s1.setAccessFault m.type).goto .execute
    else
      match translateCycle s1 m.va m.type with
      | (.pending, s2) => { s2 with flags.translationPending := true }
      | (.pageFault, s2) => (s2.setPageFault m.type).goto .execute
      | (.accessFault, s2) => (s2.setAccessFault m.type).goto .execute
      | (.ok pa, s2) => if s2.inBounds pa then armData m pa s2 else (s2.setAccessFault m.type).goto .execute

/-- R412. -/
def stageWaitData (s : State) : State :=
  match s.memop.kind with
  | .store =>
    if s.bus.writeReq.issued && s.bus.writeReq.respSeen then
      let s1 := { s with bus.writeReq.active := false }
      (flagError s1.bus.writeReq.respErr s1.memop.type s1).goto .execute
    else s
  | _ =>
    if s.bus.loadReq.issued && s.bus.loadReq.respSeen then
      let s1 := { s with bus.loadReq.active := false }
      (flagError s1.bus.loadReq.respErr s1.memop.type s1).goto .execute
    else s

/-- The Execute part of an instruction: for a memory instruction its body, the access having been made in WaitData and
an AMO's write being left to WaitAmoWrite; for every other instruction its whole meaning (R421). -/
def executeBody (i : Instr) (s : State) : Result :=
  match i with
  | .lb rd rs1 imm => .next (lbBody rd rs1 imm s)
  | .lh rd rs1 imm => .next (lhBody rd rs1 imm s)
  | .lw rd rs1 imm => .next (lwBody rd rs1 imm s)
  | .lbu rd rs1 imm => .next (lbuBody rd rs1 imm s)
  | .lhu rd rs1 imm => .next (lhuBody rd rs1 imm s)
  | .sb rs1 rs2 imm => .next (sbBody rs1 rs2 imm s)
  | .sh rs1 rs2 imm => .next (shBody rs1 rs2 imm s)
  | .sw rs1 rs2 imm => .next (swBody rs1 rs2 imm s)
  | .lrW rd rs1 _ _ => .next (lrBody rd rs1 s)
  | .scW rd rs1 rs2 _ _ => .next (scBody rd rs1 rs2 s)
  | .amoswapW rd rs1 rs2 _ _ => .next (amoBody (fun _ b => b) rd rs1 rs2 s)
  | .amoaddW rd rs1 rs2 _ _ => .next (amoBody (fun old b => old + b) rd rs1 rs2 s)
  | .amoxorW rd rs1 rs2 _ _ => .next (amoBody (fun old b => old ^^^ b) rd rs1 rs2 s)
  | .amoandW rd rs1 rs2 _ _ => .next (amoBody (fun old b => old &&& b) rd rs1 rs2 s)
  | .amoorW rd rs1 rs2 _ _ => .next (amoBody (fun old b => old ||| b) rd rs1 rs2 s)
  | .amominW rd rs1 rs2 _ _ => .next (amoBody minSigned rd rs1 rs2 s)
  | .amomaxW rd rs1 rs2 _ _ => .next (amoBody maxSigned rd rs1 rs2 s)
  | .amominuW rd rs1 rs2 _ _ => .next (amoBody minUnsigned rd rs1 rs2 s)
  | .amomaxuW rd rs1 rs2 _ _ => .next (amoBody maxUnsigned rd rs1 rs2 s)
  | _ => exec i s

/-- `exec()` (R421): the interrupt, then the fetch faults, then the word, then the instruction's rule (R505). -/
def execStage (s : State) : Result :=
  let s1 := s.beginExec
  match firstInterrupt s1.flags.irq with
  | some i => .next (takeInterrupt i s1)
  | none =>
    if s1.flags.pageFaultInst then .next (raise .instrPageFault s1.pc s1)
    else if s1.flags.accessFaultInst then .next (raise .instrAccessFault s1.pc s1)
    else
      match decode s1.instWord with
      | .error _ => .next (raiseUndecodable s1)
      | .ok i => executeBody i s1

/-- The one instruction count of an Execute step, and the watchdog's timestamp (R420). -/
def countInstruction (s : State) : State :=
  { s with ctl := { s.ctl with
      instCount := s.ctl.instCount + 1#64, lastProgress := s.ctl.simTime, stallReported := false } }

/-- Halted with success after the EBREAK word (R420), also where an interrupt was taken in its place (D61). The final pc
is any multiple of 4: a free value (R343, U10, log 10). -/
def haltEbreak (s : State) : State :=
  { s with
    stage := .halted, pc := Config.haltedPc s.draws ++ 0#2, draws := s.draws + 1
    ctl := { s.ctl with success := true, endReason := .ebreak } }

/-- After `exec()` (R420, R422): count, drain the latch, halt on the EBREAK word, or arm an AMO's write. -/
def afterExec (s : State) : State :=
  let s1 := { countInstruction s with latch.store := false }
  if s.instWord = Config.instEbreak then haltEbreak s1
  else if opcodeOf s.instWord = 0b0101111#7 && s.latch.store then
    { s1 with bus.writeReq := .arm 1#2 s.latch.addr 3#2 s.latch.data s.latch.strb, stage := .waitAmoWrite }
  else s1.goto .prepareFetch

/-- R420. -/
def stageExecute (s : State) : Result :=
  match execStage s with
  | .next t => .next (afterExec t)
  | .fault r => .fault r
  | .refused r => .refused r

/-- R425. A nonzero response, which the core ignores, is the fault of U5 (log 9). -/
def stageWaitAmoWrite (s : State) : Result :=
  if s.bus.writeReq.issued && s.bus.writeReq.respSeen then
    (if s.bus.writeReq.respErr then .fault .amoWriteBusError
     else .next { s with bus.writeReq.active := false, stage := .prepareFetch })
  else .next s

/-- The transition of the current stage (R402-R428). -/
def stageTransition (s : State) : Result :=
  match s.stage with
  | .prepareFetch => .next (stagePrepareFetch s)
  | .waitFetch => .next (stageWaitFetch s)
  | .prepareData => .next (stagePrepareData s)
  | .waitData => .next (stageWaitData s)
  | .execute => stageExecute s
  | .waitAmoWrite => stageWaitAmoWrite s
  | .halted => .next s

/-! ## Limits, watchdog, time, status (R429-R432) -/

/-- The halt a limit asks for, `max_inst` first (R429). -/
def limitHalt (s : State) : Option State :=
  if s.ctl.maxInst ≤ s.ctl.instCount then
    some { s with stage := .halted, ctl := { s.ctl with success := true, endReason := .maxInst } }
  else if s.ctl.maxCycles ≤ s.ctl.simTime then
    some { s with stage := .halted, ctl := { s.ctl with success := false, endReason := .maxCycles } }
  else none

/-- The stall watchdog: it only sets `stall_reported` (R431, log 20). -/
def watchdog (s : State) : State :=
  if BitVec.ofNat 64 Config.stallCycles < s.ctl.simTime - s.ctl.lastProgress && !s.ctl.stallReported then
    { s with ctl.stallReported := true }
  else s

/-- `wait_axi`: some master has an active request (R432). -/
def waitAxi (b : Bus) : Bool :=
  b.fetchReq.active || b.loadReq.active || b.mmuReq.active || b.writeReq.active

/-- The status record (R432), `uart_valid` from this step's event (R465). `uart_ch` without an event is 0: DESIGN CHOICE
(log 32), the rules give only `uart_valid = 0` there. -/
def refreshStatus (uart : Option Byte) (s : State) : State :=
  { s with status := {
      simTime := s.ctl.simTime, instCount := s.ctl.instCount, halted := s.stage == .halted
      success := s.ctl.success, waitAxi := waitAxi s.bus, uartValid := uart.isSome, uartCh := uart.getD 0#8 } }

/-- The end of a step: watchdog, phase (e), status (R401, R431, R432). -/
def endTick (uart : Option Byte) (s : State) : State := refreshStatus uart ((watchdog s).tickBy 1)

/-- A step when halted: outputs 0, the status record, nothing else (R428, log 28). -/
def haltedTick (s : State) : State := refreshStatus none { s with bus.axiOut := .idle }

/-- Phase (d). -/
def advanceStage (s : State) : Result :=
  match limitHalt s with
  | some h => .next h
  | none => stageTransition s

/-- One clock tick (R400, R401). -/
def tick (inp : AxiIn) (s : State) : Result :=
  if s.stage = .halted then .next (haltedTick s)
  else
    match advanceStage (busPhases inp s) with
    | .next t => .next (endTick (uartEvent inp (masterOutputs s.bus) s) t)
    | .fault r => .fault r
    | .refused r => .refused r

/-! ## The ideal slave of R433, over the memory that State holds (log 4, log 26) -/

/-- The R beat of the read whose AR handshake is done (R471, R473). Its error code is SLVERR, 0b10: DESIGN CHOICE (log 5),
any nonzero code is an error (D62). -/
def slaveR (s : State) (q : ReadReq) (inp : AxiIn) : AxiIn :=
  if q.active && q.issued && !q.respSeen then
    { inp with rvalid := true, rid := wireId q.master q.id, rdata := s.slave.mem.readWord q.addr
               rresp := if s.slave.readErr.contains (wordAddress q.addr) then 2#2 else 0#2, rlast := true }
  else inp

/-- The B beat of the write whose AW and W handshakes are done (R473). Its error code is SLVERR, 0b10: DESIGN CHOICE
(log 5), any nonzero code is an error (D62). -/
def slaveB (s : State) (q : WriteReq) (inp : AxiIn) : AxiIn :=
  if q.active && q.issued && q.beatsSeen == q.totalBeats && !q.respSeen then
    { inp with bvalid := true, bid := wireId q.master q.id
               bresp := if s.slave.writeErr.contains (wordAddress q.addr) then 2#2 else 0#2 }
  else inp

/-- Always ready, every response in the step after its handshake (R433). -/
def idealInput (s : State) : AxiIn :=
  slaveB s s.bus.writeReq (slaveR s s.bus.mmuReq (slaveR s s.bus.loadReq (slaveR s s.bus.fetchReq
    { AxiIn.idle with arready := true, awready := true, wready := true })))

/-- The slave takes the W beat of this step, unless it answers the write with an error (R472, log 5). -/
def slaveAcceptW (s : State) : State :=
  let q := s.bus.writeReq
  if q.active && decide (q.beatsSeen < q.totalBeats) && !s.slave.writeErr.contains (wordAddress q.addr) then
    { s with slave.mem := s.slave.mem.writeLanes (beatAddress q.addr q.beatsSeen) (q.wdata.getD q.beatsSeen 0#32) q.wstrb }
  else s

/-- One tick against the ideal slave. -/
def idealTick (s : State) : Result :=
  if s.stage = .halted then .next (haltedTick s) else tick (idealInput s) (slaveAcceptW s)

/-- `n` ticks against the ideal slave. -/
def idealTicks : Nat → State → Result
  | 0, s => .next s
  | n + 1, s =>
    match idealTick s with
    | .next t => idealTicks n t
    | .fault r => .fault r
    | .refused r => .refused r

end Sys2Proof.Machine
end

