-- ==== Sys2Proof/Machine/Pass.lean ====
section
/-! DEFINITION. The instruction level: `InstrStep` (R430), one pass PrepareFetch to PrepareFetch as one transition, with
the step counts of R433. The bus view (`bus`) is what this level hides. -/

namespace Sys2Proof.Machine

/-- A fetch that failed leaves no instruction word (R402, R405). -/
def noInstruction (s : State) : State := { s with instWord := 0#32 }

/-- The fetch transaction (R405, R461): the whole word is copied into the mirror and read from it. The two ticks of
WaitFetch, and on success the one of PrepareData (R433). -/
def fetchWord (pa : Word) (s : State) : State :=
  match busRead pa { s with fetchPaddr := pa } with
  | (true, s1) => noInstruction ((s1.tickBy 2).setAccessFault .fetch)
  | (false, s1) => { s1.tickBy 3 with instWord := s1.mirror.readWord pa }

/-- PrepareFetch and WaitFetch (R402, R405, R430): flags cleared, pc translated as a fetch, the word read. -/
def fetchPhase (s : State) : State :=
  let s1 := { s.clearFaultFlags with memop.kind := .none }.tickBy 1
  match translate s1 s1.pc .fetch with
  | (.ok pa, s2) => if s2.inBounds pa then fetchWord pa s2 else noInstruction (s2.setAccessFault .fetch)
  | (.pageFault, s2) => noInstruction (s2.setPageFault .fetch)
  | (.accessFault, s2) => noInstruction (s2.setAccessFault .fetch)
  | (.pending, s2) => noInstruction (s2.setAccessFault .fetch)  -- never: `pteReadDirect` is never pending

/-- The data accesses of the fetched word, made before the interrupt check (R430, R572). -/
def accessOfWord (s : State) : State :=
  match preDecodeWord s with
  | some m => dataPhase m s
  | none => s

/-- The decision of R430: an interrupt (its accesses made), a fetch fault, an undecodable word, or the instruction. -/
def passExecute (s : State) : Result :=
  let s1 := s.beginExec
  match firstInterrupt s1.flags.irq with
  | some j => .next (takeInterrupt j (accessOfWord s1))
  | none =>
    if s1.flags.pageFaultInst then .next (raise .instrPageFault s1.pc s1)
    else if s1.flags.accessFaultInst then .next (raise .instrAccessFault s1.pc s1)
    else
      match decode s1.instWord with
      | .error _ => .next (raiseUndecodable s1)
      | .ok i => exec i s1

/-- The ticks of Execute, and of WaitAmoWrite when a set latch of an opcode-0x2F word was written (R433). -/
def retireTicks (s : State) : Nat :=
  if opcodeOf s.instWord = 0b0101111#7 && s.latch.store then 3 else 1

/-- After `exec()` (R420, R422, R430): the instruction is counted, the latch drained, the EBREAK word halts. -/
def retire (s : State) : State :=
  let s1 := { countInstruction s with latch.store := false }.tickBy (retireTicks s)
  refreshStatus none (if s.instWord = Config.instEbreak then haltEbreak s1 else s1)

/-- One pass (R430). -/
def instructionPass (s : State) : Result :=
  match passExecute (fetchPhase s) with
  | .next t => .next (retire t)
  | .fault r => .fault r
  | .refused r => .refused r

/-- Between two instructions: PrepareFetch about to begin, no transaction open. -/
def State.atBoundary (s : State) : Bool :=
  s.stage == .prepareFetch && !s.flags.translationPending && !waitAxi s.bus

/-- The limits (R429), else one pass (log 13). -/
def limitedPass (s : State) : Result :=
  match limitHalt s with
  | some h => .next (endTick none h)
  | none => instructionPass s

/-- The host's step: halted states stay (R428); at an instruction boundary one pass; inside an instruction, a state only
`tick` leaves, one tick against the ideal slave (log 3, log 14). -/
def machineStep (s : State) : Result :=
  if s.stage = .halted then .next (haltedTick s)
  else if s.atBoundary then limitedPass s
  else idealTick s

/-- The physical address the next fetch reads (the pc itself where its translation fails). -/
def fetchAddress (s : State) : Word :=
  match translate s s.pc .fetch with
  | (.ok pa, _) => pa
  | (_, _) => s.pc

/-- At an instruction boundary: whatever was open is abandoned. -/
def State.toBoundary (s : State) : State :=
  { s with
    stage := .prepareFetch
    flags.translationPending := false
    bus := { s.bus with
      fetchReq.active := false, loadReq.active := false, mmuReq.active := false, writeReq.active := false } }

/-- `w` placed where the next fetch reads, in a slave that answers that fetch without an error (log 18). -/
def placeWord (s : State) (w : Word) : State :=
  let s1 := s.toBoundary
  let pa := fetchAddress s1
  { s1 with slave := { s1.slave with
      mem := s1.slave.mem.writeWord pa w
      readErr := s1.slave.readErr.filter fun a => a != wordAddress pa } }

end Sys2Proof.Machine
end

