-- ==== Sys2Proof/Machine/HostInterface.lean ====
section
/-! DEFINITION. What the host does to the core between steps (R560-R566): loading an image, setting limits, reading the
status, the return code of a step and the error string. -/

namespace Sys2Proof.Machine

/-- The physical address of the image (R100, R561). -/
def imageBase : Nat := 0x80000000

/-- The image's bytes at consecutive addresses (R561). -/
def Memory.writeBytes : Memory → Nat → List Byte → Memory
  | m, _, [] => m
  | m, a, b :: bs => Memory.writeBytes (m.writeByte a b) (a + 1) bs

/-- A length that is not a multiple of 4 is padded with zeros in its last word (R561, D64). -/
def padImage (image : List Byte) : List Byte := image ++ List.replicate ((4 - image.length % 4) % 4) 0#8

/-- The contents the mirror and the slave hold after a load: stub, sentinel, image (R563, R566). Every other word, which
R563 leaves unspecified, has the free value of log 1 again, whatever an earlier run wrote: DESIGN CHOICE (log 33). -/
def imageMemory (image : List Byte) : Memory := Memory.writeBytes [] imageBase (padImage image)

/-- `load_image` (R561): the mirror and the slave are given the contents, the machine is reset; limits that were set
stay (R560). The parameters and the slave's error addresses are the environment's and stay. -/
def State.loadImage (s : State) (image : List Byte) : State :=
  { State.reset with
    ctl := { Control.reset with maxInst := s.ctl.maxInst, maxCycles := s.ctl.maxCycles }
    mirror := imageMemory image
    slave := { s.slave with mem := imageMemory image }
    cfg := s.cfg
    draws := s.draws }

/-- `set_limits` (R564). -/
def State.setLimits (s : State) (maxInst maxCycles : BitVec 64) : State :=
  { s with ctl := { s.ctl with maxInst := maxInst, maxCycles := maxCycles } }

/-- `get_status` (R432, R564). -/
def State.getStatus (s : State) : Status := s.status

/-- The return code of the step that left this state (R400): 0 running, +1 halted with success, -1 with failure. -/
def State.returnCode (s : State) : Int :=
  if s.stage = .halted then (if s.ctl.success then 1 else -1) else 0

/-- `last_error` (R432, R565). -/
def State.lastError (s : State) : String :=
  if s.ctl.endReason = .maxCycles then "max_cycles reached" else ""

end Sys2Proof.Machine
end

