-- ==== Sys2Proof/Safety.lean ====
section
/-! DEFINITION. What the statements speak of: which states are legal (the bits R34 to R43 hard-wire, an aligned pc, memory
in canonical form), which request slots may be active in which stage (R67, R457), and the usual ways to say what an
instruction leaves unchanged. -/

namespace Sys2Proof.Machine

/-! ## Legal states -/

/-- The bits the spec hard-wires to 0 in the stored CSRs, and MPP never the reserved value 2 (R34, R35, R37, R39-R41). -/
structure Csrs.Legal (c : Csrs) : Prop where
  mtvec : c.mtvec &&& ~~~tvecMask = 0#32
  stvec : c.stvec &&& ~~~tvecMask = 0#32
  mepc : c.mepc &&& ~~~epcMask = 0#32
  sepc : c.sepc &&& ~~~epcMask = 0#32
  mie : c.mie &&& ~~~mieMask = 0#32
  mip : c.mip &&& ~~~Config.mipWmask = 0#32
  medeleg : c.medeleg &&& ~~~medelegMask = 0#32
  mideleg : c.mideleg &&& ~~~midelegMask = 0#32
  mstatus : c.mstatus &&& ~~~mstatusMask = 0#32
  mpp : mppOf c.mstatus ≠ 2#2

/-- `pc[1:0] = 0` always (R22). -/
def alignedPc (pc : Word) : Prop := pc.extractLsb' 0 2 = 0#2

/-- A state the machine can be in, as far as hard-wired bits, pc alignment and the memories' canonical form go. -/
structure State.Legal (s : State) : Prop where
  pc : alignedPc s.pc
  csr : s.csr.Legal
  mirror : s.mirror.wf = true
  slave : s.slave.mem.wf = true

/-! ## Request slots (R67, R457) -/

/-- No two of the four slots are active. -/
def Bus.atMostOne (b : Bus) : Prop :=
  ¬(b.fetchReq.active ∧ b.loadReq.active) ∧ ¬(b.fetchReq.active ∧ b.mmuReq.active) ∧
  ¬(b.fetchReq.active ∧ b.writeReq.active) ∧ ¬(b.loadReq.active ∧ b.mmuReq.active) ∧
  ¬(b.loadReq.active ∧ b.writeReq.active) ∧ ¬(b.mmuReq.active ∧ b.writeReq.active)

/-- The walk of the current Prepare stage waits for a PTE. -/
def State.walkWaits (s : State) : Prop :=
  (s.stage = .prepareFetch ∧ (translateCycle s s.pc .fetch).1 = .pending) ∨
  (s.stage = .prepareData ∧ ∃ m, preDecodeWord s = some m ∧ misaligned m.size m.va = false ∧
    (translateCycle s m.va m.type).1 = .pending)

/-- Which slot is active in which stage (R457). A limit halt abandons what was open (R428). -/
structure State.SlotsFollowStage (s : State) : Prop where
  one : s.bus.atMostOne
  fetch : s.bus.fetchReq.active → s.stage = .waitFetch ∨ s.stage = .halted
  load : s.bus.loadReq.active → (s.stage = .waitData ∧ s.memop.kind ≠ .store) ∨ s.stage = .halted
  write : s.bus.writeReq.active →
    (s.stage = .waitData ∧ s.memop.kind = .store) ∨ s.stage = .waitAmoWrite ∨ s.stage = .halted
  mmu : s.bus.mmuReq.active →
    (s.flags.translationPending ∧ s.bus.mmuHook.pending ∧ ¬s.bus.mmuHook.responseValid ∧ s.walkWaits) ∨
      s.stage = .halted

/-! ## Frames -/

/-- Registers: `rd` holds `v` (x0 still reads 0), every other register reads as before (R11, R20). -/
def State.regsAfter (s t : State) (rd : Reg) (v : Word) : Prop :=
  ∀ r, t.reg r = if r = rd ∧ r ≠ 0#5 then v else s.reg r

/-- Every register reads as before. -/
def State.sameRegs (s t : State) : Prop := ∀ r, t.reg r = s.reg r

/-- Everything but the registers and the pc is as before: CSRs, flags, privilege, reservation, latch, PTW cache, both
memories, bus view, counters. -/
def State.sameButRegsPc (s t : State) : Prop := { t with x := s.x, pc := s.pc } = s

/-- The common behaviour of R221: completes with one register written, pc + 4 and nothing else changed. -/
def completesWriting (i : Instr) (s : State) (rd : Reg) (v : Word) : Prop :=
  ∃ t, exec i s = .next t ∧ s.regsAfter t rd v ∧ t.pc = s.pc + 4#32 ∧ s.sameButRegsPc t

/-- The bytes of an `n`-byte access at `pa`, as physical addresses. -/
def inAccess (pa : Word) (n a : Nat) : Prop := pa.toNat ≤ a ∧ a < pa.toNat + n

/-- What a translation leaves: the PTW cache may be filled, a PTE's word copied into the mirror, time may pass. -/
def State.sameButWalk (s t : State) : Prop :=
  { t with ptw := s.ptw, mirror := s.mirror, ctl := { t.ctl with simTime := s.ctl.simTime } } = s

/-- What a trap leaves: the trap's own registers (R521, R522), `priv`, `pc`, `is_exception`, `asy`; all else as in `s`. -/
def State.sameButTrap (s t : State) : Prop :=
  { t with
    pc := s.pc, priv := s.priv
    csr := { t.csr with
      mepc := s.csr.mepc, mcause := s.csr.mcause, mtval := s.csr.mtval
      sepc := s.csr.sepc, scause := s.csr.scause, stval := s.csr.stval, mstatus := s.csr.mstatus }
    flags := { t.flags with
      isException := s.flags.isException, asy := s.flags.asy, illegalException := s.flags.illegalException } } = s

/-- A synchronous exception `e` with trap value `tval` was taken from `s` (R520-R522): the target mode by delegation, the
saved pc, cause and value, the vector's base (synchronous exceptions always enter there, R523). -/
def State.tookException (s t : State) (e : Exc) (tval : Word) : Prop :=
  if s.priv ≠ .m ∧ s.csr.medeleg.getLsbD (excCode e) = true then
    t.priv = .s ∧ t.csr.sepc = s.pc ∧ t.csr.scause = BitVec.ofNat 32 (excCode e) ∧ t.csr.stval = tval ∧
      t.csr.mepc = s.csr.mepc ∧ t.csr.mcause = s.csr.mcause ∧ t.csr.mtval = s.csr.mtval ∧
      t.pc = s.csr.stvec &&& 0xFFFFFFFC#32 ∧ t.csr.mstatus = mstatusIntoS s.csr.mstatus s.priv
  else
    t.priv = .m ∧ t.csr.mepc = s.pc ∧ t.csr.mcause = BitVec.ofNat 32 (excCode e) ∧ t.csr.mtval = tval ∧
      t.csr.sepc = s.csr.sepc ∧ t.csr.scause = s.csr.scause ∧ t.csr.stval = s.csr.stval ∧
      t.pc = s.csr.mtvec &&& 0xFFFFFFFC#32 ∧ t.csr.mstatus = mstatusIntoM s.csr.mstatus s.priv

/-- The bits of a synchronous trap's own registers plus what a data path that failed leaves: the access faults' flags, the
PTW cache, the mirror, the two latches, time. Registers, reservation, the slave, privileged state other than the trap's:
as before. The UART stream is said apart. -/
def State.sameButFailedAccess (s t : State) : Prop :=
  { t with
    pc := s.pc, priv := s.priv, ptw := s.ptw, mirror := s.mirror, memop := s.memop, latch := s.latch
    uartOut := s.uartOut, ctl := { t.ctl with simTime := s.ctl.simTime }
    csr := { t.csr with
      mepc := s.csr.mepc, mcause := s.csr.mcause, mtval := s.csr.mtval
      sepc := s.csr.sepc, scause := s.csr.scause, stval := s.csr.stval, mstatus := s.csr.mstatus }
    flags := { t.flags with
      isException := s.flags.isException, asy := s.flags.asy
      pageFaultLoad := s.flags.pageFaultLoad, pageFaultStore := s.flags.pageFaultStore
      accessFaultLoad := s.flags.accessFaultLoad, accessFaultStore := s.flags.accessFaultStore } } = s

/-- What a memory instruction that completes may touch besides its results (registers, pc, reservation, the bytes it
stores, the UART stream), which a statement says apart: PTW cache, mirror, the two latches, data-side fault flags, time. -/
def State.sameButAccess (s t : State) : Prop :=
  { t with
    x := s.x, pc := s.pc, res := s.res, slave := { t.slave with mem := s.slave.mem }, uartOut := s.uartOut
    ptw := s.ptw, mirror := s.mirror, memop := s.memop, latch := s.latch
    ctl := { t.ctl with simTime := s.ctl.simTime }
    flags := { t.flags with
      pageFaultLoad := s.flags.pageFaultLoad, pageFaultStore := s.flags.pageFaultStore
      accessFaultLoad := s.flags.accessFaultLoad, accessFaultStore := s.flags.accessFaultStore } } = s

/-- A byte of the mirror changes only to what the slave then holds (R84). -/
def State.mirrorFollows (s t : State) : Prop :=
  ∀ a, t.mirror.readByte a = s.mirror.readByte a ∨ t.mirror.readByte a = t.slave.mem.readByte a

/-- Every byte of memory outside the `n` bytes at `pa` reads as before. -/
def State.sameBytesOutside (s t : State) (pa : Word) (n : Nat) : Prop :=
  ∀ a, ¬inAccess pa n a → t.slave.mem.readByte a = s.slave.mem.readByte a

/-- Byte `k` of the `n`-byte value stored at `pa` stands at `pa + k` (R90). -/
def State.holdsBytes (t : State) (pa : Word) (n : Nat) (v : Word) : Prop :=
  ∀ k, k < n → t.slave.mem.readByte (pa.toNat + k) = v.extractLsb' (8 * k) 8

/-- The UART stream after a write of the `n` low bytes of `v` at `pa`: the byte at `UART_BASE`, if it is among them
(R465). -/
def State.uartAfter (s : State) (pa : Word) (n : Nat) (v : Word) : List Byte :=
  if pa.toNat ≤ s.cfg.uartBase.toNat ∧ s.cfg.uartBase.toNat < pa.toNat + n then
    s.uartOut ++ [v.extractLsb' (8 * (s.cfg.uartBase.toNat - pa.toNat)) 8]
  else s.uartOut

/-! ## Where an access reaches -/

/-- The access translates to `pa`, which is inside the bounds of R83. -/
def State.reaches (s : State) (va : Word) (ty : Access) (pa : Word) : Prop :=
  (translate s va ty).1 = .ok pa ∧ s.inBounds pa = true

/-- The slave answers a read of this word without an error. -/
def State.readsOk (s : State) (pa : Word) : Prop := s.slave.readErr.contains (wordAddress pa) = false

/-- The slave answers a write of this word without an error. -/
def State.writesOk (s : State) (pa : Word) : Prop := s.slave.writeErr.contains (wordAddress pa) = false

/-- The access fault of an access type (R83, R91, R506). -/
def accessFaultOf : Access → Exc
  | .fetch => .instrAccessFault
  | .load => .loadAccessFault
  | .store => .storeAccessFault

/-- The page fault of an access type (R119). -/
def pageFaultOf : Access → Exc
  | .fetch => .instrPageFault
  | .load => .loadPageFault
  | .store => .storePageFault

/-- A PTE read gives this word (R118): the cached one on a hit, whatever memory holds (U8, log 25), else memory's. -/
def State.pteReads (s : State) (pa pte : Word) : Prop :=
  s.inBounds pa = true ∧
    (s.ptwLookup pa = some pte ∨ (s.ptwLookup pa = none ∧ s.readsOk pa ∧ s.slave.mem.readWord pa = pte))

/-- A PTE read fails (R83, R118, R506): out of bounds, or not cached and answered with an error. -/
def State.pteFails (s : State) (pa : Word) : Prop := s.inBounds pa = false ∨ (s.ptwLookup pa = none ∧ ¬s.readsOk pa)

/-- The PTW cache after a PTE read that gave `pte` (R118): its entry filled on a miss, as before on a hit. -/
def State.afterPteRead (s : State) (pa pte : Word) : State := if s.ptwLookup pa = none then s.ptwFill pa pte else s

/-! ## A pass -/

/-- At an instruction boundary with no limit reached (R429). -/
def State.ready (s : State) : Prop :=
  s.atBoundary = true ∧ s.ctl.instCount < s.ctl.maxInst ∧ s.ctl.simTime < s.ctl.maxCycles

/-- The fetch of the next instruction reads the word `w` from memory, without a fault. -/
def State.fetches (s : State) (w : Word) : Prop :=
  s.mirror.wf = true ∧ ∃ pa, s.reaches s.pc .fetch pa ∧ s.readsOk pa ∧ s.slave.mem.readWord pa = w

/-- An interrupt that R512 lets the machine take. -/
def State.mayTake (s : State) (j : Interrupt) : Prop :=
  s.csr.mip.getLsbD (interruptCode j) = true ∧ s.csr.mie.getLsbD (interruptCode j) = true ∧
    if s.csr.mideleg.getLsbD (interruptCode j) = true then
      s.priv = .u ∨ (s.priv = .s ∧ s.csr.mstatus.getLsbD sieBit = true)
    else s.priv ≠ .m ∨ s.csr.mstatus.getLsbD mieBit = true

/-- The order of R510: 11, 3, 7, 9, 1, 5. -/
def interruptRank : Interrupt → Nat
  | .mei => 0
  | .msi => 1
  | .mti => 2
  | .sei => 3
  | .ssi => 4
  | .sti => 5

/-- An interrupt was taken from `s` (R510, R520-R523): the saved pc, cause with bit 31, trap value 0, and the vector, at
which pc stands unless the pass halted on the EBREAK word (D61), whose final pc is open (U10, log 10). -/
def State.tookInterrupt (s t : State) (j : Interrupt) : Prop :=
  if s.priv ≠ .m ∧ s.csr.mideleg.getLsbD (interruptCode j) = true then
    t.priv = .s ∧ t.csr.sepc = s.pc ∧ t.csr.scause = 0x80000000#32 + BitVec.ofNat 32 (interruptCode j) ∧
      t.csr.stval = 0#32 ∧ t.csr.mstatus = mstatusIntoS s.csr.mstatus s.priv ∧
      (t.stage ≠ .halted → t.pc = (s.csr.stvec &&& 0xFFFFFFFC#32) +
        (if s.csr.stvec.getLsbD 0 then BitVec.ofNat 32 (4 * interruptCode j) else 0#32))
  else
    t.priv = .m ∧ t.csr.mepc = s.pc ∧ t.csr.mcause = 0x80000000#32 + BitVec.ofNat 32 (interruptCode j) ∧
      t.csr.mtval = 0#32 ∧ t.csr.mstatus = mstatusIntoM s.csr.mstatus s.priv ∧
      (t.stage ≠ .halted → t.pc = (s.csr.mtvec &&& 0xFFFFFFFC#32) +
        (if s.csr.mtvec.getLsbD 0 then BitVec.ofNat 32 (4 * interruptCode j) else 0#32))

/-- What a program can see of a state: registers, pc, privilege, CSRs, reservation, the slave, the UART stream. -/
def State.sameArch (s t : State) : Prop :=
  t.x = s.x ∧ t.pc = s.pc ∧ t.priv = s.priv ∧ t.csr = s.csr ∧ t.res = s.res ∧ t.slave = s.slave ∧ t.uartOut = s.uartOut

/-- The bus view aside, two states agree: what the instruction level hides (R430). -/
def State.eqButBus (s t : State) : Prop := { t with bus := s.bus } = s

/-! ## Binary32 data (R385, R386; PRESUMED as a whole, log 21) -/

/-- A finite datum: neither infinity nor NaN. -/
def isFinite (v : Word) : Prop := v.extractLsb' 23 8 ≠ 255#8

/-- A NaN. -/
def isNanDatum (v : Word) : Prop := v.extractLsb' 23 8 = 255#8 ∧ v.extractLsb' 0 23 ≠ 0#23

/-- +0 and -0. -/
def zeroOf (neg : Bool) : Word := if neg then 0x80000000#32 else 0#32

/-- The two infinities. -/
def infOf (neg : Bool) : Word := if neg then 0xFF800000#32 else 0x7F800000#32

/-- The number a finite datum stands for. An infinity gets ±2^128 by the same formula, which is beyond every finite datum
and so its place in a comparison. -/
def datum (v : Word) : ℚ :=
  (if v.getLsbD 31 then -1 else 1) *
    if v.extractLsb' 23 8 = 0#8 then (v.extractLsb' 0 23).toNat * (2 : ℚ) ^ (-149 : ℤ)
    else (2 ^ 23 + (v.extractLsb' 0 23).toNat) * (2 : ℚ) ^ ((v.extractLsb' 23 8).toNat - 150 : ℤ)

/-- The greatest finite datum that is not above `X`, or -infinity below them all. -/
def isFloorOf (X : ℝ) (v : Word) : Prop :=
  (isFinite v ∧ (datum v : ℝ) ≤ X ∧ ∀ d, isFinite d → (datum d : ℝ) ≤ X → datum d ≤ datum v) ∨
    (v = infOf true ∧ ∀ d, isFinite d → X < datum d)

/-- The least finite datum that is not below `X`, or +infinity above them all. -/
def isCeilOf (X : ℝ) (v : Word) : Prop :=
  (isFinite v ∧ X ≤ (datum v : ℝ) ∧ ∀ d, isFinite d → X ≤ (datum d : ℝ) → datum v ≤ datum d) ∨
    (v = infOf false ∧ ∀ d, isFinite d → (datum d : ℝ) < X)

/-- The finite datum nearest to zero's side of `X`: the greatest in size that is not greater than `X` in size. -/
def isTruncationOf (X : ℝ) (v : Word) : Prop :=
  isFinite v ∧ |(datum v : ℝ)| ≤ |X| ∧ ∀ d, isFinite d → |(datum d : ℝ)| ≤ |X| → |datum d| ≤ |datum v|

/-- The finite datum nearest to `X`, which `wins v d` against another datum `d` as near; infinity from 2^128 - 2^103 on,
where rounding to 24 bits reaches 2^128. -/
def isNearestTo (wins : Word → Word → Prop) (X : ℝ) (v : Word) : Prop :=
  (2 ^ 128 - 2 ^ 103 ≤ |X| → v = infOf true ∨ v = infOf false) ∧
    (|X| < 2 ^ 128 - 2 ^ 103 → isFinite v ∧ ∀ d, isFinite d → |(datum v : ℝ) - X| ≤ |(datum d : ℝ) - X| ∧
      (|(datum v : ℝ) - X| = |(datum d : ℝ) - X| → datum d = datum v ∨ wins v d))

/-- `round_rm` (R386, R361) of an exact real `X` other than 0: the sign is that of `X`, of a zero too. -/
def roundsTo (r : Rounding) (X : ℝ) (v : Word) : Prop :=
  (v.getLsbD 31 = true ↔ X < 0) ∧
    match r with
    | .rne => isNearestTo (fun v _ => v.getLsbD 0 = false) X v
    | .rtz => isTruncationOf X v
    | .rdn => isFloorOf X v
    | .rup => isCeilOf X v
    | .rmm => isNearestTo (fun v d => |datum d| < |datum v|) X v

end Sys2Proof.Machine
end

