-- ==== Sys2Proof/Certificates/Slice0/Obligations.lean ====
section
/-! DEFINITION. The statements for the provers, in the order of OBLIGATIONS.json. Each docstring names the rules of spec/
it formalises, and the log entry where a clause rests on the model's own choice. -/

open Sys2Proof Sys2Proof.Machine

/-! ## Encoding (spec/30) -/

/-- R142, R151: words written out bit by bit, one or more of each of R142's formats (R, I, I-shift, S, B, U, J, R-amo,
I-csr, I-csri, I-sys, I-fence, R-fp, R4), decode to the instructions they stand for. -/
def Obligations.SampleWordsDecode : Prop :=
  decode 0b11011110101011011100_00101_0110111#32 = .ok (.lui 5#5 0xDEADC#20) ∧
  decode 0b00000000000000000001_00110_0010111#32 = .ok (.auipc 6#5 1#20) ∧
  decode 0b1_1111111110_1_11111111_00000_1101111#32 = .ok (.jal 0#5 (-4#21)) ∧
  decode 0b000000000000_00101_000_00000_1100111#32 = .ok (.jalr 0#5 5#5 0#12) ∧
  decode 0b0_000000_00010_00001_000_1000_0_1100011#32 = .ok (.beq 1#5 2#5 16#13) ∧
  decode 0b111011101111_00101_000_00101_0010011#32 = .ok (.addi 5#5 5#5 (-273#12)) ∧
  decode 0b0100000_00100_00010_101_00001_0010011#32 = .ok (.srai 1#5 2#5 4#5) ∧
  decode 0b0100000_00010_00001_000_00011_0110011#32 = .ok (.sub 3#5 1#5 2#5) ∧
  decode 0b000000000001_00110_000_00111_0000011#32 = .ok (.lb 7#5 6#5 1#12) ∧
  decode 0b0000000_00101_00110_001_00010_0100011#32 = .ok (.sh 6#5 5#5 2#12) ∧
  decode 0b0000001_00010_00001_110_00011_0110011#32 = .ok (.rem 3#5 1#5 2#5) ∧
  decode 0b00011_0_0_00101_00110_010_01000_0101111#32 = .ok (.scW 8#5 6#5 5#5 false false) ∧
  decode 0b111100010100_00000_010_01010_1110011#32 = .ok (.csrrs 10#5 0#5 0xF14#12) ∧
  decode 0b001101000000_10101_101_00101_1110011#32 = .ok (.csrrwi 5#5 21#5 0x340#12) ∧
  decode 0b0011000_00010_00000_000_00000_1110011#32 = .ok .mret ∧
  decode 0b1000_0011_0001_00110_000_00101_0001111#32 = .ok (.fence 8#4 3#4 1#4 6#5 5#5) ∧
  decode 0b0001100_00010_00001_011_00011_1010011#32 = .ok (.fdivS 3#5 1#5 2#5 3#3) ∧
  decode 0b00011_00_00010_00001_111_01000_1000011#32 = .ok (.fmaddS 8#5 1#5 2#5 3#5 7#3)

/-- R142, R145: every operand of a well-formed instruction comes back from its word. -/
def Obligations.DecodeEncodeRoundTrip : Prop :=
  ∀ i : Instr, i.wellFormed = true → decode (encode i) = .ok i

/-- R142: a word that decodes is the word of the instruction it decodes to, so no bit of it is ignored. -/
def Obligations.EncodeDecodeRoundTrip : Prop :=
  ∀ (w : Word) (i : Instr), decode w = .ok i → encode i = w

/-- R151, R160: the decoder accepts exactly the words some row of the opcode table covers, and gives the row's
instruction. A word with `rm` 101 or 110, which R160 counts among the illegal words, is covered by its row and decodes: the
model's choice (log 31, DESIGN CHOICE), its meaning raising the exception (ReservedRoundingModeTraps). -/
def Obligations.DecodeFollowsOpcodeTable : Prop :=
  (∀ r ∈ opcodeTable, ∀ w, r.covers w = true ↔ ∃ i, decode w = .ok i ∧ i.mnemonic = r.mnemonic) ∧
  (∀ w, (∃ e, decode w = .error e) ↔ ∀ r ∈ opcodeTable, r.covers w = false)

/-! ## One pass (spec/50) -/

/-- R430: where the fetched word decodes, a step is that instruction's meaning and then the count and the halt test; the
fetch itself changes nothing a program sees. -/
def Obligations.StepRunsDecodedInstruction : Prop :=
  ∀ (s : State) (w : Word) (i : Instr), s.ready → s.fetches w → decode w = .ok i → takeableInterrupt s = none →
    s.sameArch (fetchPhase s).beginExec ∧ (fetchPhase s).beginExec.instWord = w ∧
    step s = match exec i (fetchPhase s).beginExec with
      | .next t => .next (retire t)
      | .fault r => .fault r
      | .refused r => .refused r

/-- R402, R405, R90: the word run is the little-endian word that the slave holds where pc translates to, and the fetch
leaves no fault flag. -/
def Obligations.FetchReadsTheWordAtPc : Prop :=
  ∀ (s : State) (pa : Word), s.mirror.wf = true → s.reaches s.pc .fetch pa → s.readsOk pa →
    (fetchPhase s).instWord =
      wordOfBytes (s.slave.mem.readByte (pa.toNat / 4 * 4)) (s.slave.mem.readByte (pa.toNat / 4 * 4 + 1))
        (s.slave.mem.readByte (pa.toNat / 4 * 4 + 2)) (s.slave.mem.readByte (pa.toNat / 4 * 4 + 3)) ∧
    (fetchPhase s).fetchPaddr = pa ∧
    (fetchPhase s).flags.pageFaultInst = false ∧ (fetchPhase s).flags.accessFaultInst = false

/-- R160, R402, R405, R505, R506: a fetch that fails, and a word that decodes to nothing, take their exceptions, and
nothing else a program sees changes. The undecodable word sets `illegal_exception` (R25); that it is still set after the
trap is the model's choice (log 12, DEDUCED). -/
def Obligations.FetchFailuresTrap : Prop :=
  ∀ s : State, s.ready → takeableInterrupt s = none →
    ((translate s s.pc .fetch).1 = .pageFault →
      ∃ t, step s = .next t ∧ s.tookException t .instrPageFault s.pc ∧ s.sameRegs t ∧ t.slave = s.slave ∧
        t.res = s.res) ∧
    ((translate s s.pc .fetch).1 = .accessFault ∨
        (∃ pa, (translate s s.pc .fetch).1 = .ok pa ∧ (s.inBounds pa = false ∨ ¬s.readsOk pa)) →
      ∃ t, step s = .next t ∧ s.tookException t .instrAccessFault s.pc ∧ s.sameRegs t ∧ t.slave = s.slave ∧
        t.res = s.res) ∧
    (∀ w e, s.fetches w → decode w = .error e →
      ∃ t, step s = .next t ∧ s.tookException t .illegalInstr w ∧ t.flags.illegalException = true ∧ s.sameRegs t ∧
        t.slave = s.slave ∧ t.res = s.res)

/-- R560, R75, R68, R100, R561-R563, D62: the values the spec gives for reset, and what a load leaves in the slave and,
alike, in the mirror: the four stub words, the sentinel word and the image from 0x80000000. The other words, which R563
leaves unspecified, are not spoken of (log 1, log 33). -/
def Obligations.ResetAndImageLoad : Prop :=
  (State.reset.pc = 0#32 ∧ State.reset.priv = .m ∧ State.reset.reg 0#5 = 0#32 ∧
    State.reset.csr =
      { mtvec := 0#32, mepc := 0#32, mcause := 0#32, mie := 0#32, mip := 0#32, mtval := 0#32, mscratch := 0#32
        mstatus := 0#32, mideleg := 0#32, medeleg := 0#32, sepc := 0#32, stvec := 0#32, scause := 0#32
        sscratch := 0#32, stval := 0#32, satp := 0#32 } ∧
    State.reset.flags =
      { pageFaultInst := false, pageFaultLoad := false, pageFaultStore := false, accessFaultInst := false
        accessFaultLoad := false, accessFaultStore := false, illegalException := false, translationPending := false
        asy := false, irq := { mei := false, msi := false, mti := false, sei := false, ssi := false, sti := false }
        isException := false, isBr := false, brTaken := false, isCsr := false, simEnd := false } ∧
    State.reset.res.valid = false ∧ State.reset.latch.store = false ∧
    (∀ pa, State.reset.ptwLookup pa = none) ∧ State.reset.stage = .prepareFetch ∧
    State.reset.bus.fetchReq.active = false ∧ State.reset.bus.loadReq.active = false ∧
    State.reset.bus.mmuReq.active = false ∧ State.reset.bus.writeReq.active = false ∧
    State.reset.bus.mmuHook =
      { pending := false, responseValid := false, addr := 0#32, data := 0#32, fault := false } ∧
    State.reset.bus.axiOut =
      { arvalid := false, araddr := 0#32, arid := 0#4, arlen := 0#8, arsize := 0#3, arburst := 0#2, rready := false
        awvalid := false, awaddr := 0#32, awid := 0#4, awlen := 0#8, awsize := 0#3, awburst := 0#2, wvalid := false
        wdata := 0#32, wstrb := 0#4, wlast := false, bready := false } ∧
    State.reset.instWord = 0#32 ∧ State.reset.memop.kind = .none ∧ State.reset.ctl.simTime = 0#64 ∧
    State.reset.ctl.instCount = 0#64 ∧ State.reset.ctl.lastProgress = 0#64 ∧ State.reset.ctl.success = false ∧
    State.reset.ctl.maxInst = BitVec.allOnes 64 ∧ State.reset.ctl.maxCycles = BitVec.allOnes 64) ∧
  ∀ (s : State) (image : List Byte) (m : Memory), image.length ≤ 2 ^ 31 →
    m ∈ [(s.loadImage image).slave.mem, (s.loadImage image).mirror] →
    m.readWord 0#32 = 0xf1402573#32 ∧ m.readWord 4#32 = 0x83e005b7#32 ∧ m.readWord 8#32 = 0x800002b7#32 ∧
    m.readWord 12#32 = 0x00028067#32 ∧ m.readWord 0x10000004#32 = 0x00006000#32 ∧
    (∀ k (h : k < image.length), m.readByte (0x80000000 + k) = image[k]) ∧ (s.loadImage image).pc = 0#32

/-- R510, R520, R572: an interrupt is taken in place of the instruction at pc; no register, reservation or other CSR
changes, but a store's bytes have already been written. Only in place of the EBREAK word, which halts all the same (D61),
is the final pc open (U10, log 10). -/
def Obligations.InterruptReplacesInstruction : Prop :=
  ∀ (s : State) (j : Interrupt), s.ready → takeableInterrupt s = some j →
    (∃ t, step s = .next t ∧ s.tookInterrupt t j ∧ s.sameRegs t ∧ t.res = s.res ∧
      t.ctl.instCount = s.ctl.instCount + 1#64 ∧ t.csr.mip = s.csr.mip ∧ t.csr.mie = s.csr.mie ∧
      t.csr.satp = s.csr.satp) ∧
    (∀ w rs1 rs2 imm, s.Legal → s.csr.satp.getLsbD 31 = false → s.fetches w → decode w = .ok (.sw rs1 rs2 imm) →
      (s.reg rs1 + imm.signExtend 32).toNat % 4 = 0 → s.inBounds (s.reg rs1 + imm.signExtend 32) = true →
      s.writesOk (s.reg rs1 + imm.signExtend 32) →
      ∃ t, step s = .next t ∧ t.holdsBytes (s.reg rs1 + imm.signExtend 32) 4 (s.reg rs2) ∧
        s.sameBytesOutside t (s.reg rs1 + imm.signExtend 32) 4 ∧
        t.uartOut = s.uartAfter (s.reg rs1 + imm.signExtend 32) 4 (s.reg rs2))

/-- R428: no state changes, every output 0, the return code of the halt, at the instruction level and in a tick with any
input; a further step changes nothing at all. Every other tick, the one that halts included, counts one `sim_time`. -/
def Obligations.HaltedMachineStays : Prop :=
  (∀ s : State, s.stage = .halted →
    ∃ t, step s = .next t ∧ (∀ inp, tick inp s = .next t) ∧
      { t with bus := { t.bus with axiOut := s.bus.axiOut }, status := s.status } = s ∧
      t.bus.axiOut = .idle ∧ t.status.halted = true ∧ t.returnCode = (if s.ctl.success then 1 else -1) ∧
      step t = .next t) ∧
  (∀ (inp : AxiIn) (s t : State), s.stage ≠ .halted → tick inp s = .next t → t.ctl.simTime = s.ctl.simTime + 1#64)

/-- R429: `max_inst` first, halted with success; then `max_cycles`, halted with failure; before the stage's own
transition, in a tick with any input; nothing a program sees changes, and `sim_time` still advances. -/
def Obligations.LimitsHaltTheMachine : Prop :=
  ∀ (inp : AxiIn) (s : State), s.stage ≠ .halted →
    (s.ctl.maxInst ≤ s.ctl.instCount →
      ∃ t, tick inp s = .next t ∧ t.stage = .halted ∧ t.ctl.success = true ∧ t.ctl.endReason = .maxInst ∧
        t.returnCode = 1 ∧ t.ctl.instCount = s.ctl.instCount ∧ t.ctl.simTime = s.ctl.simTime + 1#64 ∧
        t.x = s.x ∧ t.pc = s.pc ∧ t.priv = s.priv ∧ t.csr = s.csr ∧ t.res = s.res) ∧
    (s.ctl.instCount < s.ctl.maxInst → s.ctl.maxCycles ≤ s.ctl.simTime →
      ∃ t, tick inp s = .next t ∧ t.stage = .halted ∧ t.ctl.success = false ∧ t.ctl.endReason = .maxCycles ∧
        t.returnCode = -1 ∧ t.lastError = "max_cycles reached" ∧ t.ctl.instCount = s.ctl.instCount ∧
        t.ctl.simTime = s.ctl.simTime + 1#64 ∧ t.x = s.x ∧ t.pc = s.pc ∧ t.priv = s.priv ∧ t.csr = s.csr ∧
        t.res = s.res)

/-- R420, R422: every pass counts one instruction, whatever became of it, leaves the store latch drained, and is at
PrepareFetch again, or Halted exactly if the word was the EBREAK word. -/
def Obligations.EachPassCountsOneInstruction : Prop :=
  ∀ s t : State, s.ready → step s = .next t →
    t.ctl.instCount = s.ctl.instCount + 1#64 ∧ t.status.instCount = s.ctl.instCount + 1#64 ∧
    t.latch.store = false ∧ (t.stage = if t.instWord = 0x00100073#32 then .halted else .prepareFetch)

/-- R343, R420, D61: the EBREAK word halts the machine with success, even if an interrupt was taken in its place;
executed, it sets `sim_end` and no register, CSR or mode changes. The final pc, which U10 leaves open, is not said
(log 10: a free value). -/
def Obligations.EbreakWordHalts : Prop :=
  ∀ s : State, s.ready → s.fetches 0x00100073#32 →
    ∃ t, step s = .next t ∧ t.stage = .halted ∧ t.ctl.success = true ∧ t.returnCode = 1 ∧
      (takeableInterrupt s = none →
        t.flags.simEnd = true ∧ s.sameRegs t ∧ t.csr = s.csr ∧ t.priv = s.priv ∧ t.slave = s.slave ∧ t.res = s.res) ∧
      (takeableInterrupt s ≠ none → t.flags.simEnd = s.flags.simEnd ∧ t.flags.isException = true)

/-- R520 ("CPU-raised exceptions never escape the `step` call"), R314, R425: a step is refused never, and stops only on
the error response to the write of an AMO, or of an SC.W that succeeds, at the address it writes; a tick stops only in
WaitAmoWrite, on that response (log 9). -/
def Obligations.StepStopsOnlyOnAmoWriteError : Prop :=
  (∀ s : State, (∃ t, step s = .next t) ∨ step s = .fault .amoWriteBusError) ∧
  (∀ (inp : AxiIn) (s : State), (∃ t, tick inp s = .next t) ∨
    tick inp s = .fault .amoWriteBusError ∧ s.stage = .waitAmoWrite ∧
      (s.bus.writeReq.respErr = true ∨ (inp.bvalid = true ∧ inp.bresp ≠ 0#2))) ∧
  (∀ (i : Instr) (s : State), exec i s = .fault .amoWriteBusError →
    (encode i).extractLsb' 0 7 = 0b0101111#7 ∧
    ∃ m pa, preDecode i s = some m ∧ m.va.toNat % 4 = 0 ∧ s.reaches m.va .store pa ∧ s.readsOk pa ∧ ¬s.writesOk pa ∧
      ∀ rd rs1 rs2 aq rl, i = .scW rd rs1 rs2 aq rl → s.res.valid = true ∧ s.res.addr = pa)

/-! ## Integer instructions (spec/40, spec/43) -/

/-- R200-R210, R221: upper-immediate and register-immediate results and their frame. -/
def Obligations.ImmediateResults : Prop :=
  ∀ (s : State) (rd rs1 : Reg) (imm20 : BitVec 20) (imm : BitVec 12) (shamt : BitVec 5),
    completesWriting (.lui rd imm20) s rd (BitVec.ofNat 32 (imm20.toNat * 2 ^ 12)) ∧
    completesWriting (.auipc rd imm20) s rd (s.pc + BitVec.ofNat 32 (imm20.toNat * 2 ^ 12)) ∧
    completesWriting (.addi rd rs1 imm) s rd (s.reg rs1 + imm.signExtend 32) ∧
    completesWriting (.slti rd rs1 imm) s rd
      (if (s.reg rs1).toInt < imm.toInt then 1#32 else 0#32) ∧
    completesWriting (.sltiu rd rs1 imm) s rd
      (if (s.reg rs1).toNat < (imm.signExtend 32).toNat then 1#32 else 0#32) ∧
    completesWriting (.xori rd rs1 imm) s rd (s.reg rs1 ^^^ imm.signExtend 32) ∧
    completesWriting (.ori rd rs1 imm) s rd (s.reg rs1 ||| imm.signExtend 32) ∧
    completesWriting (.andi rd rs1 imm) s rd (s.reg rs1 &&& imm.signExtend 32) ∧
    completesWriting (.slli rd rs1 shamt) s rd (BitVec.ofNat 32 ((s.reg rs1).toNat * 2 ^ shamt.toNat)) ∧
    completesWriting (.srli rd rs1 shamt) s rd (BitVec.ofNat 32 ((s.reg rs1).toNat / 2 ^ shamt.toNat)) ∧
    completesWriting (.srai rd rs1 shamt) s rd (BitVec.ofInt 32 ((s.reg rs1).toInt / 2 ^ shamt.toNat))

/-- R211-R222: register-register results and their frame; shifts use the low five bits of x[rs2]. -/
def Obligations.RegisterResults : Prop :=
  ∀ (s : State) (rd rs1 rs2 : Reg),
    completesWriting (.add rd rs1 rs2) s rd (s.reg rs1 + s.reg rs2) ∧
    completesWriting (.sub rd rs1 rs2) s rd (s.reg rs1 - s.reg rs2) ∧
    completesWriting (.sll rd rs1 rs2) s rd
      (BitVec.ofNat 32 ((s.reg rs1).toNat * 2 ^ ((s.reg rs2).toNat % 32))) ∧
    completesWriting (.slt rd rs1 rs2) s rd
      (if (s.reg rs1).toInt < (s.reg rs2).toInt then 1#32 else 0#32) ∧
    completesWriting (.sltu rd rs1 rs2) s rd
      (if (s.reg rs1).toNat < (s.reg rs2).toNat then 1#32 else 0#32) ∧
    completesWriting (.xor rd rs1 rs2) s rd (s.reg rs1 ^^^ s.reg rs2) ∧
    completesWriting (.srl rd rs1 rs2) s rd
      (BitVec.ofNat 32 ((s.reg rs1).toNat / 2 ^ ((s.reg rs2).toNat % 32))) ∧
    completesWriting (.sra rd rs1 rs2) s rd
      (BitVec.ofInt 32 ((s.reg rs1).toInt / 2 ^ ((s.reg rs2).toNat % 32))) ∧
    completesWriting (.or rd rs1 rs2) s rd (s.reg rs1 ||| s.reg rs2) ∧
    completesWriting (.and rd rs1 rs2) s rd (s.reg rs1 &&& s.reg rs2)

/-- R290-R293, R298: the low word of the product, and the high word as the product divided by 2^32, rounded down. -/
def Obligations.MultiplyResults : Prop :=
  ∀ (s : State) (rd rs1 rs2 : Reg),
    completesWriting (.mul rd rs1 rs2) s rd (s.reg rs1 * s.reg rs2) ∧
    completesWriting (.mulh rd rs1 rs2) s rd
      (BitVec.ofInt 32 ((s.reg rs1).toInt * (s.reg rs2).toInt / 2 ^ 32)) ∧
    completesWriting (.mulhsu rd rs1 rs2) s rd
      (BitVec.ofInt 32 ((s.reg rs1).toInt * ((s.reg rs2).toNat : Int) / 2 ^ 32)) ∧
    completesWriting (.mulhu rd rs1 rs2) s rd
      (BitVec.ofNat 32 ((s.reg rs1).toNat * (s.reg rs2).toNat / 2 ^ 32))

/-- R294-R298: quotients and remainders, with the two corners the spec defines. -/
def Obligations.DivideResults : Prop :=
  ∀ (s : State) (rd rs1 rs2 : Reg),
    completesWriting (.div rd rs1 rs2) s rd
      (if s.reg rs2 = 0#32 then 0xFFFFFFFF#32 else (s.reg rs1).sdiv (s.reg rs2)) ∧
    completesWriting (.divu rd rs1 rs2) s rd
      (if s.reg rs2 = 0#32 then 0xFFFFFFFF#32 else s.reg rs1 / s.reg rs2) ∧
    completesWriting (.rem rd rs1 rs2) s rd
      (if s.reg rs2 = 0#32 then s.reg rs1 else (s.reg rs1).srem (s.reg rs2)) ∧
    completesWriting (.remu rd rs1 rs2) s rd
      (if s.reg rs2 = 0#32 then s.reg rs1 else s.reg rs1 % s.reg rs2)

/-- R296: "Always `DIV * b + REM = a` modulo 2^32 when `b != 0`", and the sign and size of the remainder. -/
def Obligations.DivisionIdentity : Prop :=
  ∀ (s : State) (rs1 rs2 rd : Reg), rd ≠ 0#5 → s.reg rs2 ≠ 0#32 →
    ∃ q r qu ru, exec (.div rd rs1 rs2) s = .next q ∧ exec (.rem rd rs1 rs2) s = .next r ∧
      exec (.divu rd rs1 rs2) s = .next qu ∧ exec (.remu rd rs1 rs2) s = .next ru ∧
      q.reg rd * s.reg rs2 + r.reg rd = s.reg rs1 ∧
      qu.reg rd * s.reg rs2 + ru.reg rd = s.reg rs1 ∧
      (r.reg rd).toInt.natAbs < (s.reg rs2).toInt.natAbs ∧ (ru.reg rd).toNat < (s.reg rs2).toNat ∧
      (r.reg rd = 0#32 ∨ ((r.reg rd).toInt < 0 ↔ (s.reg rs1).toInt < 0))

/-! ## Control transfer (spec/41) -/

/-- R250, R251, R259: link register, target and frame of a jump whose target is a multiple of 4. -/
def Obligations.JumpsLinkAndTransfer : Prop :=
  (∀ (s : State) (rd : Reg) (off : BitVec 21), (s.pc + off.signExtend 32).toNat % 4 = 0 →
    ∃ t, exec (.jal rd off) s = .next t ∧ s.regsAfter t rd (s.pc + 4#32) ∧ t.pc = s.pc + off.signExtend 32 ∧
      s.sameButRegsPc t) ∧
  (∀ (s : State) (rd rs1 : Reg) (imm : BitVec 12), (s.reg rs1 + imm.signExtend 32).getLsbD 1 = false →
    ∃ t, exec (.jalr rd rs1 imm) s = .next t ∧ s.regsAfter t rd (s.pc + 4#32) ∧
      t.pc = (s.reg rs1 + imm.signExtend 32) &&& ~~~1#32 ∧ s.sameButRegsPc t)

/-- The six branches with their conditions (R252-R257). -/
def Obligations.BranchesFollowTheirCondition : Prop :=
  ∀ (s : State) (rs1 rs2 : Reg) (off : BitVec 13) (i : Instr) (cond : Prop),
    (i, cond) ∈ [(Instr.beq rs1 rs2 off, s.reg rs1 = s.reg rs2), (Instr.bne rs1 rs2 off, s.reg rs1 ≠ s.reg rs2),
      (Instr.blt rs1 rs2 off, (s.reg rs1).toInt < (s.reg rs2).toInt),
      (Instr.bge rs1 rs2 off, (s.reg rs1).toInt ≥ (s.reg rs2).toInt),
      (Instr.bltu rs1 rs2 off, (s.reg rs1).toNat < (s.reg rs2).toNat),
      (Instr.bgeu rs1 rs2 off, (s.reg rs1).toNat ≥ (s.reg rs2).toNat)] →
    (cond → (s.pc + off.signExtend 32).toNat % 4 = 0 →
      exec i s = .next { s with
        pc := s.pc + off.signExtend 32, flags := { s.flags with isBr := true, brTaken := true } }) ∧
    (¬cond →
      exec i s = .next { s with pc := s.pc + 4#32, flags := { s.flags with isBr := true, brTaken := false } })

/-- R258: a JAL, JALR or taken branch to a target that is not a multiple of 4 raises cause 0 on the transferring
instruction, with the target as trap value and no register written; a branch not taken never raises, whatever its offset.
That a branch which traps has `is_br` and `br_taken` set is the model's reading (log 11, DEDUCED). -/
def Obligations.MisalignedTargetsTrap : Prop :=
  ∀ (s : State) (rd rs1 rs2 : Reg) (joff : BitVec 21) (imm : BitVec 12) (off : BitVec 13),
    ((s.pc + joff.signExtend 32).extractLsb' 0 2 ≠ 0#2 →
      ∃ t, exec (.jal rd joff) s = .next t ∧
        s.tookException t .instrAddrMisaligned (s.pc + joff.signExtend 32) ∧ s.sameButTrap t) ∧
    ((s.reg rs1 + imm.signExtend 32).getLsbD 1 = true →
      ∃ t, exec (.jalr rd rs1 imm) s = .next t ∧
        s.tookException t .instrAddrMisaligned ((s.reg rs1 + imm.signExtend 32) &&& ~~~1#32) ∧ s.sameButTrap t) ∧
    (∀ i taken, (i, taken) ∈ [(Instr.beq rs1 rs2 off, decide (s.reg rs1 = s.reg rs2)),
        (Instr.bne rs1 rs2 off, decide (s.reg rs1 ≠ s.reg rs2)),
        (Instr.blt rs1 rs2 off, decide ((s.reg rs1).toInt < (s.reg rs2).toInt)),
        (Instr.bge rs1 rs2 off, decide ((s.reg rs1).toInt ≥ (s.reg rs2).toInt)),
        (Instr.bltu rs1 rs2 off, decide ((s.reg rs1).toNat < (s.reg rs2).toNat)),
        (Instr.bgeu rs1 rs2 off, decide ((s.reg rs1).toNat ≥ (s.reg rs2).toNat))] →
      (taken = true → (s.pc + off.signExtend 32).extractLsb' 0 2 ≠ 0#2 → ∃ t, exec i s = .next t ∧
        s.tookException t .instrAddrMisaligned (s.pc + off.signExtend 32) ∧ (s.setBranchFlags true).sameButTrap t) ∧
      (taken = false → ∃ t, exec i s = .next t ∧ t.pc = s.pc + 4#32 ∧ t.csr = s.csr ∧ t.priv = s.priv ∧ t.x = s.x))

/-! ## Loads and stores (spec/42, spec/20) -/

/-- R270-R274, R278, R90: a load writes the little-endian bytes the slave holds at the translated address, extended; no
byte of memory and nothing privileged changes. -/
def Obligations.LoadsReadBytes : Prop :=
  ∀ (s : State) (rd rs1 : Reg) (imm : BitVec 12) (pa : Word) (i : Instr) (n : Nat) (v : Word),
    (i, n, v) ∈ [
      (Instr.lb rd rs1 imm, 1, (s.slave.mem.readByte pa.toNat).signExtend 32),
      (Instr.lh rd rs1 imm, 2,
        (s.slave.mem.readByte (pa.toNat + 1) ++ s.slave.mem.readByte pa.toNat).signExtend 32),
      (Instr.lw rd rs1 imm, 4,
        wordOfBytes (s.slave.mem.readByte pa.toNat) (s.slave.mem.readByte (pa.toNat + 1))
          (s.slave.mem.readByte (pa.toNat + 2)) (s.slave.mem.readByte (pa.toNat + 3))),
      (Instr.lbu rd rs1 imm, 1, (s.slave.mem.readByte pa.toNat).setWidth 32),
      (Instr.lhu rd rs1 imm, 2,
        (s.slave.mem.readByte (pa.toNat + 1) ++ s.slave.mem.readByte pa.toNat).setWidth 32)] →
    s.Legal → (s.reg rs1 + imm.signExtend 32).toNat % n = 0 → s.reaches (s.reg rs1 + imm.signExtend 32) .load pa →
    s.readsOk pa →
    ∃ t, exec i s = .next t ∧ s.regsAfter t rd v ∧ t.pc = s.pc + 4#32 ∧ t.slave = s.slave ∧ t.res = s.res ∧
      t.uartOut = s.uartOut ∧ s.sameButAccess t ∧ s.mirrorFollows t

/-- R275-R277, R279, R90: a store writes its bytes at the translated address of x[rs1] + imm and no other byte; no
register changes. -/
def Obligations.StoresWriteBytes : Prop :=
  ∀ (s : State) (rs1 rs2 : Reg) (imm : BitVec 12) (pa : Word) (i : Instr) (n : Nat),
    (i, n) ∈ [(Instr.sb rs1 rs2 imm, 1), (Instr.sh rs1 rs2 imm, 2), (Instr.sw rs1 rs2 imm, 4)] →
    s.Legal → (s.reg rs1 + imm.signExtend 32).toNat % n = 0 → s.reaches (s.reg rs1 + imm.signExtend 32) .store pa →
    s.writesOk pa →
    ∃ t, exec i s = .next t ∧ t.holdsBytes pa n (s.reg rs2) ∧ s.sameBytesOutside t pa n ∧ s.sameRegs t ∧
      t.pc = s.pc + 4#32 ∧ t.res = s.res ∧ s.sameButAccess t ∧ s.mirrorFollows t

/-- R465, R97: a store emits one character iff the byte at `UART_BASE` is among those it writes, by physical address. -/
def Obligations.StoresEmitUartCharacter : Prop :=
  ∀ (s : State) (rs1 rs2 : Reg) (imm : BitVec 12) (pa : Word) (i : Instr) (n : Nat),
    (i, n) ∈ [(Instr.sb rs1 rs2 imm, 1), (Instr.sh rs1 rs2 imm, 2), (Instr.sw rs1 rs2 imm, 4)] →
    (s.reg rs1 + imm.signExtend 32).toNat % n = 0 → s.reaches (s.reg rs1 + imm.signExtend 32) .store pa →
    ∃ t, exec i s = .next t ∧ t.uartOut = s.uartAfter pa n (s.reg rs2)

/-- R125: a load at the address of the store just made, translated alike, gives the value stored (scenario 3). -/
def Obligations.LoadReturnsLastStore : Prop :=
  ∀ (s t : State) (rs1 rs2 rd rb : Reg) (imm imm' : BitVec 12) (pa : Word), rd ≠ 0#5 → s.Legal →
    (s.reg rs1 + imm.signExtend 32).toNat % 4 = 0 → s.reaches (s.reg rs1 + imm.signExtend 32) .store pa →
    s.writesOk pa → s.readsOk pa → exec (.sw rs1 rs2 imm) s = .next t →
    (t.reg rb + imm'.signExtend 32).toNat % 4 = 0 → t.reaches (t.reg rb + imm'.signExtend 32) .load pa →
    ∃ u, exec (.lw rd rb imm') t = .next u ∧ u.reg rd = s.reg rs2

/-- R91: a data access whose virtual address is not a multiple of its size is rejected before translation and with no
bus traffic: cause 5 for loads and LR.W, 7 for stores, SC.W and AMOs, the address as trap value. -/
def Obligations.MisalignedAccessesTrap : Prop :=
  ∀ (i : Instr) (s : State) (m : MemReq), preDecode i s = some m → m.va.toNat % m.size ≠ 0 →
    ∃ t, exec i s = .next t ∧
      s.tookException t (if m.type = .load then .loadAccessFault else .storeAccessFault) m.va ∧
      s.sameButFailedAccess t ∧ t.uartOut = s.uartOut ∧ t.mirror = s.mirror ∧ t.ptw = s.ptw

/-- R278, R279, R280, R312, R83: a translation that fails, and a physical address outside the bounds, raise the page
fault or access fault of the access's type; nothing is stored or written. -/
def Obligations.UntranslatableAccessesTrap : Prop :=
  ∀ (i : Instr) (s : State) (m : MemReq), preDecode i s = some m → m.va.toNat % m.size = 0 →
    ((translate s m.va m.type).1 = .pageFault →
      ∃ t, exec i s = .next t ∧ s.tookException t (pageFaultOf m.type) m.va ∧ s.sameButFailedAccess t ∧
        t.uartOut = s.uartOut) ∧
    ((translate s m.va m.type).1 = .accessFault ∨
        (∃ pa, (translate s m.va m.type).1 = .ok pa ∧ s.inBounds pa = false) →
      ∃ t, exec i s = .next t ∧ s.tookException t (accessFaultOf m.type) m.va ∧ s.sameButFailedAccess t ∧
        t.uartOut = s.uartOut)

/-- R506: an error response to the read of a load, LR.W, SC.W or AMO, and to the write of a store, is an access fault of
the access's type; the store's bytes are in the mirror all the same (D63), the slave's own memory is as before (log 5). -/
def Obligations.BusErrorsTrap : Prop :=
  ∀ (i : Instr) (s : State) (m : MemReq) (pa : Word), preDecode i s = some m → m.va.toNat % m.size = 0 →
    s.reaches m.va m.type pa →
    (m.kind ≠ .store → ¬s.readsOk pa →
      ∃ t, exec i s = .next t ∧ s.tookException t (accessFaultOf m.type) m.va ∧ s.sameButFailedAccess t ∧
        t.uartOut = s.uartOut) ∧
    (m.kind = .store → s.mirror.wf = true → ¬s.writesOk pa →
      ∃ t, exec i s = .next t ∧ s.tookException t .storeAccessFault m.va ∧ s.sameButFailedAccess t ∧
        t.uartOut = s.uartAfter pa m.size m.data ∧
        ∀ k, k < m.size → t.mirror.readByte (pa.toNat + k) = m.data.extractLsb' (8 * k) 8)

/-! ## LR.W, SC.W, AMOs (spec/44) -/

/-- R300, R311: LR.W reads the word, whatever `aq` and `rl`, and holds a reservation on its physical address. -/
def Obligations.LoadReservedReserves : Prop :=
  ∀ (s : State) (rd rs1 : Reg) (aq rl : Bool) (pa : Word), s.Legal → (s.reg rs1).toNat % 4 = 0 →
    s.reaches (s.reg rs1) .load pa → s.readsOk pa →
    ∃ t, exec (.lrW rd rs1 aq rl) s = .next t ∧ s.regsAfter t rd (s.slave.mem.readWord pa) ∧
      t.res = { valid := true, addr := pa } ∧ t.pc = s.pc + 4#32 ∧ t.slave = s.slave ∧ t.uartOut = s.uartOut ∧
      s.sameButAccess t ∧ s.mirrorFollows t

/-- R301, R311: SC.W succeeds iff a reservation is held on the same physical word; it stores only on success and drops
the reservation either way. -/
def Obligations.StoreConditionalOutcomes : Prop :=
  ∀ (s : State) (rd rs1 rs2 : Reg) (aq rl : Bool) (pa : Word), s.Legal → (s.reg rs1).toNat % 4 = 0 →
    s.reaches (s.reg rs1) .store pa → s.readsOk pa →
    (s.res.valid = true ∧ s.res.addr = pa → s.writesOk pa →
      ∃ t, exec (.scW rd rs1 rs2 aq rl) s = .next t ∧ s.regsAfter t rd 0#32 ∧ t.holdsBytes pa 4 (s.reg rs2) ∧
        s.sameBytesOutside t pa 4 ∧ t.uartOut = s.uartAfter pa 4 (s.reg rs2) ∧
        t.res = { valid := false, addr := s.res.addr } ∧ t.pc = s.pc + 4#32 ∧ s.sameButAccess t ∧ s.mirrorFollows t) ∧
    (¬(s.res.valid = true ∧ s.res.addr = pa) →
      ∃ t, exec (.scW rd rs1 rs2 aq rl) s = .next t ∧ s.regsAfter t rd 1#32 ∧ t.slave = s.slave ∧
        t.uartOut = s.uartOut ∧ t.res = { valid := false, addr := s.res.addr } ∧ t.pc = s.pc + 4#32 ∧
        s.sameButAccess t ∧ s.mirrorFollows t)

/-- R302-R311: an AMO puts the old word into rd and the computed word into memory, whatever `aq` and `rl`. -/
def Obligations.AmosReadModifyWrite : Prop :=
  ∀ (s : State) (rd rs1 rs2 : Reg) (aq rl : Bool) (pa : Word) (i : Instr) (new : Word),
    (i, new) ∈ [
      (Instr.amoswapW rd rs1 rs2 aq rl, s.reg rs2),
      (Instr.amoaddW rd rs1 rs2 aq rl, s.slave.mem.readWord pa + s.reg rs2),
      (Instr.amoxorW rd rs1 rs2 aq rl, s.slave.mem.readWord pa ^^^ s.reg rs2),
      (Instr.amoandW rd rs1 rs2 aq rl, s.slave.mem.readWord pa &&& s.reg rs2),
      (Instr.amoorW rd rs1 rs2 aq rl, s.slave.mem.readWord pa ||| s.reg rs2),
      (Instr.amominW rd rs1 rs2 aq rl,
        BitVec.ofInt 32 (min (s.slave.mem.readWord pa).toInt (s.reg rs2).toInt)),
      (Instr.amomaxW rd rs1 rs2 aq rl,
        BitVec.ofInt 32 (max (s.slave.mem.readWord pa).toInt (s.reg rs2).toInt)),
      (Instr.amominuW rd rs1 rs2 aq rl,
        BitVec.ofNat 32 (min (s.slave.mem.readWord pa).toNat (s.reg rs2).toNat)),
      (Instr.amomaxuW rd rs1 rs2 aq rl,
        BitVec.ofNat 32 (max (s.slave.mem.readWord pa).toNat (s.reg rs2).toNat))] →
    s.Legal → (s.reg rs1).toNat % 4 = 0 → s.reaches (s.reg rs1) .store pa → s.readsOk pa → s.writesOk pa →
    ∃ t, exec i s = .next t ∧ s.regsAfter t rd (s.slave.mem.readWord pa) ∧ t.holdsBytes pa 4 new ∧
      s.sameBytesOutside t pa 4 ∧ t.uartOut = s.uartAfter pa 4 new ∧ t.res = s.res ∧ t.pc = s.pc + 4#32 ∧
      s.sameButAccess t ∧ s.mirrorFollows t

/-- R314, U5: an error response to the write of an AMO or of a successful SC.W is the model's fault (log 9). -/
def Obligations.AmoWriteErrorStops : Prop :=
  ∀ (s : State) (rd rs1 rs2 : Reg) (aq rl : Bool) (pa : Word) (i : Instr),
    (i ∈ [Instr.amoswapW rd rs1 rs2 aq rl, .amoaddW rd rs1 rs2 aq rl, .amoxorW rd rs1 rs2 aq rl,
        .amoandW rd rs1 rs2 aq rl, .amoorW rd rs1 rs2 aq rl, .amominW rd rs1 rs2 aq rl,
        .amomaxW rd rs1 rs2 aq rl, .amominuW rd rs1 rs2 aq rl, .amomaxuW rd rs1 rs2 aq rl] ∨
      (i = .scW rd rs1 rs2 aq rl ∧ s.res.valid = true ∧ s.res.addr = pa)) →
    (s.reg rs1).toNat % 4 = 0 → s.reaches (s.reg rs1) .store pa → s.readsOk pa → ¬s.writesOk pa →
    exec i s = .fault .amoWriteBusError

/-! ## CSRs (spec/45, spec/10) -/

/-- R32: whether an access to a CSR number is allowed in a mode. -/
def csrAllowed (n : BitVec 12) (writes : Prop) (s : State) : Prop :=
  (csrOfNumber n).isSome ∧ (n.extractLsb' 8 2).toNat ≤ s.priv.toBits.toNat ∧ ¬(writes ∧ n.extractLsb' 10 2 = 3#2)

/-- R320-R327: the six instructions, as (instruction, writes?, value written, given the value read). -/
def csrForms (rd rs1 : Reg) (uimm : BitVec 5) (n : BitVec 12) (s : State) (old : Word) : List (Instr × Prop × Word) :=
  [(.csrrw rd rs1 n, True, s.reg rs1),
    (.csrrs rd rs1 n, rs1 ≠ 0#5, old ||| s.reg rs1),
    (.csrrc rd rs1 n, rs1 ≠ 0#5, old &&& ~~~s.reg rs1),
    (.csrrwi rd uimm n, True, uimm.setWidth 32),
    (.csrrsi rd uimm n, uimm ≠ 0#5, old ||| uimm.setWidth 32),
    (.csrrci rd uimm n, uimm ≠ 0#5, old &&& ~~~(uimm.setWidth 32))]

/-- R33: what each CSR number reads as: its own register, a view of one, a constant, or a draw of the time source, whose
value is free (log 6). -/
def csrValues (s : State) : List (BitVec 12 × Word) :=
  [(0x305#12, s.csr.mtvec), (0x341#12, s.csr.mepc), (0x342#12, s.csr.mcause), (0x304#12, s.csr.mie),
    (0x344#12, s.csr.mip), (0x343#12, s.csr.mtval), (0x340#12, s.csr.mscratch), (0x300#12, s.csr.mstatus),
    (0x303#12, s.csr.mideleg), (0x302#12, s.csr.medeleg), (0x141#12, s.csr.sepc), (0x105#12, s.csr.stvec),
    (0x142#12, s.csr.scause), (0x140#12, s.csr.sscratch), (0x143#12, s.csr.stval), (0x180#12, s.csr.satp)] ++
  [(0x100#12, s.csr.mstatus &&& 0x000C0122#32), (0x104#12, s.csr.mie &&& 0x222#32), (0x144#12, s.csr.mip &&& 0x222#32),
    (0xF14#12, 0#32), (0x301#12, 0x40141101#32), (0xC01#12, Config.timeSource s.draws),
    (0xC81#12, Config.timeSource s.draws)]

/-- R320-R327, R33: the old value, as R33 gives it for the number, into rd, the new one written iff the form writes (what
that leaves, CsrWritesAreMasked says), pc + 4, `is_csr`; nothing else but the CSR file, the PTW cache for `satp`, and the
draw counter for `time`, whose value is free (log 6). -/
def Obligations.CsrInstructionsReadAndWrite : Prop :=
  (∀ (s : State) (n : BitVec 12), (csrOfNumber n).isSome = true ↔ ∃ v, (n, v) ∈ csrValues s) ∧
  ∀ (s : State) (rd rs1 : Reg) (uimm : BitVec 5) (n : BitVec 12) (c : Csr) (i : Instr) (writes : Prop) (old new : Word),
    csrOfNumber n = some c → (n, old) ∈ csrValues s → (i, writes, new) ∈ csrForms rd rs1 uimm n s old →
    csrAllowed n writes s →
    ∃ t, exec i s = .next t ∧ s.regsAfter t rd old ∧ t.pc = s.pc + 4#32 ∧ t.flags.isCsr = true ∧
      t.draws = (if n = 0xC01#12 ∨ n = 0xC81#12 then s.draws + 1 else s.draws) ∧
      (writes → t.csr = (csrWrite c new s).csr ∧ t.ptw = (csrWrite c new s).ptw) ∧
      (¬writes → t.csr = s.csr ∧ t.ptw = s.ptw) ∧
      { t with x := s.x, pc := s.pc, csr := s.csr, ptw := s.ptw, draws := s.draws, flags.isCsr := s.flags.isCsr } = s

/-- R32, R327: an access to a number that names no CSR, from too low a mode, or a write to a read-only number raises
the illegal-instruction exception with the instruction word, and changes nothing else. -/
def Obligations.IllegalCsrAccessTraps : Prop :=
  ∀ (s : State) (rd rs1 : Reg) (uimm : BitVec 5) (n : BitVec 12) (old : Word) (i : Instr) (writes : Prop) (new : Word),
    (i, writes, new) ∈ csrForms rd rs1 uimm n s old → ¬csrAllowed n writes s →
    ∃ t, exec i s = .next t ∧ s.tookException t .illegalInstr s.instWord ∧ s.sameButTrap t

/-- R34, R36-R42: what a CSRRW from M-mode leaves in the CSR file, number by number. -/
def Obligations.CsrWritesAreMasked : Prop :=
  ∀ (s : State) (rd rs1 : Reg) (n : BitVec 12) (f : Word → Csrs → Csrs), s.priv = .m →
    (n, f) ∈ [
      (0x305#12, fun v c => { c with mtvec := v &&& 0xFFFFFFFD#32 }),
      (0x105#12, fun v c => { c with stvec := v &&& 0xFFFFFFFD#32 }),
      (0x341#12, fun v c => { c with mepc := v &&& 0xFFFFFFFC#32 }),
      (0x141#12, fun v c => { c with sepc := v &&& 0xFFFFFFFC#32 }),
      (0x342#12, fun v c => { c with mcause := v }), (0x142#12, fun v c => { c with scause := v }),
      (0x343#12, fun v c => { c with mtval := v }), (0x143#12, fun v c => { c with stval := v }),
      (0x340#12, fun v c => { c with mscratch := v }), (0x140#12, fun v c => { c with sscratch := v }),
      (0x302#12, fun v c => { c with medeleg := v &&& 0xB3FF#32 }),
      (0x303#12, fun v c => { c with mideleg := v &&& 0x222#32 }),
      (0x304#12, fun v c => { c with mie := v &&& 0xAAA#32 }),
      (0x104#12, fun v c => { c with mie := (c.mie &&& ~~~0x222#32) ||| (v &&& 0x222#32) }),
      (0x344#12, fun v c => { c with mip := (c.mip &&& ~~~0xAAA#32) ||| (v &&& 0xAAA#32) }),
      (0x144#12, fun v c => { c with mip := (c.mip &&& ~~~0x2#32) ||| (v &&& 0x2#32) }),
      (0x100#12, fun v c => { c with mstatus := (c.mstatus &&& ~~~0xC0122#32) ||| (v &&& 0xC0122#32) }),
      (0x300#12, fun v c => { c with mstatus :=
        let m := if v.extractLsb' 11 2 = 2#2 then 0xE01AA#32 else 0xE19AA#32
        (c.mstatus &&& ~~~m) ||| (v &&& m) }),
      (0x180#12, fun v c => { c with satp := v }), (0x301#12, fun _ c => c)] →
    ∃ t, exec (.csrrw rd rs1 n) s = .next t ∧ t.csr = f (s.reg rs1) s.csr

/-- R130, R347, R34: SFENCE.VMA in S or M, whatever its operands, and any CSR instruction that writes `satp`, leave no
PTE cached. -/
def Obligations.SfenceAndSatpFlush : Prop :=
  ∀ (s : State) (rs1 rs2 rd : Reg) (uimm : BitVec 5), s.priv ≠ .u →
    (∃ t, exec (.sfenceVma rs1 rs2) s = .next t ∧ (∀ pa, t.ptwLookup pa = none) ∧ t.pc = s.pc + 4#32 ∧
      { t with ptw := s.ptw, pc := s.pc } = s) ∧
    (∀ i writes new, (i, writes, new) ∈ csrForms rd rs1 uimm 0x180#12 s s.csr.satp → writes →
      ∃ t, exec i s = .next t ∧ (∀ pa, t.ptwLookup pa = none) ∧ t.csr.satp = new)

/-! ## System instructions (spec/46) -/

/-- R342: cause 8, 9 or 11 by mode, trap value 0, the saved pc the ECALL's own. -/
def Obligations.EcallTakesTheModesCause : Prop :=
  ∀ s : State, ∃ t, exec .ecall s = .next t ∧
    s.tookException t (match s.priv with | .u => .ecallU | .s => .ecallS | .m => .ecallM) 0#32 ∧ s.sameButTrap t

/-- R340, R341, R346: FENCE and FENCE.I with any fields and WFI in any mode only advance pc; R343: EBREAK sets `sim_end`
and raises nothing; its pc + 4 is the instruction's own, and the halt that follows leaves the final pc open (U10, log 10). -/
def Obligations.FencesAndWfiAdvanceEbreakSetsSimEnd : Prop :=
  ∀ (s : State) (fm pred succ : BitVec 4) (imm : BitVec 12) (rs1 rd : Reg),
    exec (.fence fm pred succ rs1 rd) s = .next { s with pc := s.pc + 4#32 } ∧
    exec (.fenceI imm rs1 rd) s = .next { s with pc := s.pc + 4#32 } ∧
    exec .wfi s = .next { s with pc := s.pc + 4#32 } ∧
    exec .ebreak s = .next { s with pc := s.pc + 4#32, flags := { s.flags with simEnd := true } }

/-- R344, R345, R531: MRET in M-mode and SRET in S- and M-mode: mode, pc, and `mstatus` bit by bit; nothing else. -/
def Obligations.MretAndSretRestore : Prop :=
  (∀ s : State, s.priv = .m → s.csr.Legal →
    ∃ t, exec .mret s = .next t ∧ t.priv.toBits = s.csr.mstatus.extractLsb' 11 2 ∧ t.pc = s.csr.mepc ∧
      (∀ k, k < 32 → t.csr.mstatus.getLsbD k =
        if k = 3 then s.csr.mstatus.getLsbD 7 else if k = 7 then true else if k = 11 ∨ k = 12 then false
        else if k = 17 then s.csr.mstatus.getLsbD 17 && s.csr.mstatus.extractLsb' 11 2 == 3#2
        else s.csr.mstatus.getLsbD k) ∧
      { t with pc := s.pc, priv := s.priv, csr.mstatus := s.csr.mstatus } = s) ∧
  (∀ s : State, s.priv ≠ .u →
    ∃ t, exec .sret s = .next t ∧ t.priv = (if s.csr.mstatus.getLsbD 8 then .s else .u) ∧ t.pc = s.csr.sepc ∧
      (∀ k, k < 32 → t.csr.mstatus.getLsbD k =
        if k = 1 then s.csr.mstatus.getLsbD 5 else if k = 5 then true else if k = 8 ∨ k = 17 then false
        else s.csr.mstatus.getLsbD k) ∧
      { t with pc := s.pc, priv := s.priv, csr.mstatus := s.csr.mstatus } = s)

/-- R344, R345, R347, R540: MRET below M, SRET and SFENCE.VMA in U raise the illegal-instruction exception. -/
def Obligations.PrivilegedFormsTrapBelow : Prop :=
  ∀ (s : State) (rs1 rs2 : Reg) (i : Instr),
    (i = .mret ∧ s.priv ≠ .m) ∨ (i = .sret ∧ s.priv = .u) ∨ (i = .sfenceVma rs1 rs2 ∧ s.priv = .u) →
    ∃ t, exec i s = .next t ∧ s.tookException t .illegalInstr s.instWord ∧ s.sameButTrap t

/-! ## Zfinx (spec/47; PRESUMED as a whole, log 21) -/

/-- R360-R383: with a legal rounding mode, DYN being RNE, every instruction writes its operation's result to rd, pc + 4,
and nothing else: no status flag exists (R384). The operations' values are the subject of the statements that follow. -/
def Obligations.FloatInstructionsComplete : Prop :=
  (∀ (s : State) (rd rs1 rs2 rs3 : Reg) (rm : BitVec 3) (r : Rounding),
    (rm, r) ∈ [(0#3, .rne), (1#3, .rtz), (2#3, .rdn), (3#3, .rup), (4#3, .rmm), (7#3, .rne)] →
    completesWriting (.faddS rd rs1 rs2 rm) s rd (fAdd r (s.reg rs1) (s.reg rs2)) ∧
    completesWriting (.fsubS rd rs1 rs2 rm) s rd (fSub r (s.reg rs1) (s.reg rs2)) ∧
    completesWriting (.fmulS rd rs1 rs2 rm) s rd (fMul r (s.reg rs1) (s.reg rs2)) ∧
    completesWriting (.fdivS rd rs1 rs2 rm) s rd (fDiv r (s.reg rs1) (s.reg rs2)) ∧
    completesWriting (.fsqrtS rd rs1 rm) s rd (fSqrt r (s.reg rs1)) ∧
    completesWriting (.fcvtWS rd rs1 rm) s rd (fToSigned r (s.reg rs1)) ∧
    completesWriting (.fcvtWuS rd rs1 rm) s rd (fToUnsigned r (s.reg rs1)) ∧
    completesWriting (.fcvtSW rd rs1 rm) s rd (fOfInt r (s.reg rs1).toInt) ∧
    completesWriting (.fcvtSWu rd rs1 rm) s rd (fOfInt r (s.reg rs1).toNat) ∧
    completesWriting (.fmaddS rd rs1 rs2 rs3 rm) s rd (fMulAdd r (s.reg rs1) (s.reg rs2) (s.reg rs3)) ∧
    completesWriting (.fmsubS rd rs1 rs2 rs3 rm) s rd
      (fMulAdd r (s.reg rs1) (s.reg rs2) (s.reg rs3 ^^^ 0x80000000#32)) ∧
    completesWriting (.fnmsubS rd rs1 rs2 rs3 rm) s rd
      (fMulAdd r (s.reg rs1 ^^^ 0x80000000#32) (s.reg rs2) (s.reg rs3)) ∧
    completesWriting (.fnmaddS rd rs1 rs2 rs3 rm) s rd
      (fMulAdd r (s.reg rs1 ^^^ 0x80000000#32) (s.reg rs2) (s.reg rs3 ^^^ 0x80000000#32))) ∧
  (∀ (s : State) (rd rs1 rs2 : Reg),
    completesWriting (.fminS rd rs1 rs2) s rd (fMin (s.reg rs1) (s.reg rs2)) ∧
    completesWriting (.fmaxS rd rs1 rs2) s rd (fMax (s.reg rs1) (s.reg rs2)) ∧
    completesWriting (.feqS rd rs1 rs2) s rd (if fEq (s.reg rs1) (s.reg rs2) then 1#32 else 0#32) ∧
    completesWriting (.fltS rd rs1 rs2) s rd (if fLt (s.reg rs1) (s.reg rs2) then 1#32 else 0#32) ∧
    completesWriting (.fleS rd rs1 rs2) s rd (if fLe (s.reg rs1) (s.reg rs2) then 1#32 else 0#32))

/-- R361: a reserved rounding mode raises the illegal-instruction exception before any register is written. R160 counts
such a word among the illegal ones: it sets `illegal_exception`, which stays set after the trap (log 12, DEDUCED); that the
word decodes and its instruction raises is log 31. -/
def Obligations.ReservedRoundingModeTraps : Prop :=
  ∀ (s : State) (rd rs1 rs2 rs3 : Reg) (rm : BitVec 3) (i : Instr), rm = 5#3 ∨ rm = 6#3 →
    i ∈ [Instr.faddS rd rs1 rs2 rm, .fsubS rd rs1 rs2 rm, .fmulS rd rs1 rs2 rm, .fdivS rd rs1 rs2 rm,
      .fsqrtS rd rs1 rm, .fcvtWS rd rs1 rm, .fcvtWuS rd rs1 rm, .fcvtSW rd rs1 rm, .fcvtSWu rd rs1 rm,
      .fmaddS rd rs1 rs2 rs3 rm, .fmsubS rd rs1 rs2 rs3 rm, .fnmsubS rd rs1 rs2 rs3 rm,
      .fnmaddS rd rs1 rs2 rs3 rm] →
    ∃ t, exec i s = .next t ∧ s.tookException t .illegalInstr s.instWord ∧ t.flags.illegalException = true ∧
      s.sameButTrap t

/-- R385, R362-R366, R370-R373, R380: where the canonical NaN, or the conversions' value for a NaN, is the result: a NaN
operand, infinities of opposite sign added, zero times infinity, 0/0, infinity over infinity, the root of a negative. -/
def nanResults (r : Rounding) (a b c : Word) : Prop :=
  (isNanDatum a →
    (∀ v ∈ [fAdd r a b, fAdd r b a, fSub r a b, fSub r b a, fMul r a b, fMul r b a, fDiv r a b, fDiv r b a, fSqrt r a,
      fMulAdd r a b c, fMulAdd r b a c, fMulAdd r b c a], v = 0x7FC00000#32) ∧
    (isNanDatum b → fMin a b = 0x7FC00000#32 ∧ fMax a b = 0x7FC00000#32) ∧
    (¬isNanDatum b → fMin a b = b ∧ fMin b a = b ∧ fMax a b = b ∧ fMax b a = b) ∧
    fToSigned r a = 0x7FFFFFFF#32 ∧ fToUnsigned r a = 0xFFFFFFFF#32) ∧
  (∀ p q : Bool, ∀ v ∈ [fAdd r (infOf p) (infOf !p), fSub r (infOf p) (infOf p), fMul r (infOf p) (zeroOf q),
      fMul r (zeroOf q) (infOf p), fDiv r (infOf p) (infOf q), fDiv r (zeroOf p) (zeroOf q),
      fMulAdd r (infOf p) (zeroOf q) c, fMulAdd r (zeroOf q) (infOf p) c], v = 0x7FC00000#32) ∧
  (a.getLsbD 31 = true → a ≠ zeroOf true → fSqrt r a = 0x7FC00000#32) ∧
  (∀ p : Bool, ¬isNanDatum b → b ≠ zeroOf false → b ≠ zeroOf true →
    fMulAdd r (infOf p) b (infOf (p == b.getLsbD 31)) = 0x7FC00000#32 ∧
    fMulAdd r b (infOf p) (infOf (p == b.getLsbD 31)) = 0x7FC00000#32)

/-- R362-R366, R372, R373, R380: the results with an infinite operand, or a zero divisor, that are no NaN. -/
def infinityResults (r : Rounding) (p : Bool) (a b c : Word) : Prop :=
  (¬isNanDatum b →
    (b ≠ infOf !p → fAdd r (infOf p) b = infOf p ∧ fAdd r b (infOf p) = infOf p) ∧
    (b ≠ infOf p → fSub r (infOf p) b = infOf p ∧ fSub r b (infOf p) = infOf !p) ∧
    (b ≠ zeroOf false → b ≠ zeroOf true →
      fMul r (infOf p) b = infOf (p != b.getLsbD 31) ∧ fMul r b (infOf p) = infOf (p != b.getLsbD 31) ∧
      (¬isNanDatum c → c ≠ infOf (p == b.getLsbD 31) →
        fMulAdd r (infOf p) b c = infOf (p != b.getLsbD 31) ∧
        fMulAdd r b (infOf p) c = infOf (p != b.getLsbD 31)))) ∧
  (isFinite b → fDiv r (infOf p) b = infOf (p != b.getLsbD 31) ∧ fDiv r b (infOf p) = zeroOf (b.getLsbD 31 != p) ∧
    (b ≠ zeroOf false → b ≠ zeroOf true → fDiv r b (zeroOf p) = infOf (b.getLsbD 31 != p)) ∧
    (isFinite a → fMulAdd r a b (infOf p) = infOf p)) ∧
  fSqrt r (infOf false) = infOf false ∧
  fToSigned r (infOf p) = (if p then 0x80000000#32 else 0x7FFFFFFF#32) ∧
  fToUnsigned r (infOf p) = (if p then 0x00000000#32 else 0xFFFFFFFF#32)

/-- R386, R366, R374: the sign of an exact zero. -/
def zeroResults (r : Rounding) (a b c : Word) : Prop :=
  (isFinite a → isFinite b →
    (datum a + datum b = 0 →
      fAdd r a b = zeroOf (if a.getLsbD 31 = b.getLsbD 31 then a.getLsbD 31 else decide (r = .rdn))) ∧
    (datum a - datum b = 0 →
      fSub r a b = zeroOf (if a.getLsbD 31 ≠ b.getLsbD 31 then a.getLsbD 31 else decide (r = .rdn))) ∧
    (datum a = 0 ∨ datum b = 0 → fMul r a b = zeroOf (a.getLsbD 31 != b.getLsbD 31)) ∧
    (datum a = 0 → datum b ≠ 0 → fDiv r a b = zeroOf (a.getLsbD 31 != b.getLsbD 31)) ∧
    (isFinite c → datum a * datum b + datum c = 0 →
      fMulAdd r a b c = zeroOf (if (a.getLsbD 31 != b.getLsbD 31) = c.getLsbD 31 then c.getLsbD 31
        else decide (r = .rdn)))) ∧
  (datum a = 0 → fSqrt r a = a) ∧ fOfInt r 0 = 0#32

/-- R385: no arithmetic instruction gives another NaN than the canonical one. R362-R375, R380, R386: the results that are
not rounded from a nonzero real number: NaN, infinite operands, exact zeros. -/
def Obligations.NanInfinityAndZeroResults : Prop :=
  ∀ (r : Rounding) (a b c : Word),
    (∀ v ∈ [fAdd r a b, fSub r a b, fMul r a b, fDiv r a b, fSqrt r a, fMulAdd r a b c, fOfInt r a.toInt, fMin a b,
      fMax a b], isNanDatum v → v = 0x7FC00000#32) ∧
    nanResults r a b c ∧ (∀ p, infinityResults r p a b c) ∧ zeroResults r a b c

/-- R367-R369, R379: the sign-injection results bit by bit, and the one bit FCLASS.S sets, by the datum's own fields. -/
def Obligations.SignInjectionAndClass : Prop :=
  ∀ (s : State) (rd rs1 rs2 : Reg),
    completesWriting (.fsgnjS rd rs1 rs2) s rd
      ((s.reg rs1 &&& 0x7FFFFFFF#32) ||| (s.reg rs2 &&& 0x80000000#32)) ∧
    completesWriting (.fsgnjnS rd rs1 rs2) s rd
      ((s.reg rs1 &&& 0x7FFFFFFF#32) ||| (~~~(s.reg rs2) &&& 0x80000000#32)) ∧
    completesWriting (.fsgnjxS rd rs1 rs2) s rd
      ((s.reg rs1 &&& 0x7FFFFFFF#32) ||| ((s.reg rs1 ^^^ s.reg rs2) &&& 0x80000000#32)) ∧
    ∀ (e : BitVec 8) (f : BitVec 23) (neg : Bool), e = (s.reg rs1).extractLsb' 23 8 →
      f = (s.reg rs1).extractLsb' 0 23 → neg = (s.reg rs1).getLsbD 31 →
      completesWriting (.fclassS rd rs1) s rd
        (if e = 255#8 then
          (if f = 0#23 then (if neg then 1#32 else 128#32) else if f.getLsbD 22 then 512#32 else 256#32)
        else if e = 0#8 then
          (if f = 0#23 then (if neg then 8#32 else 16#32) else if neg then 4#32 else 32#32)
        else if neg then 2#32 else 64#32)

/-- R370, R371, R376-R378: a comparison with a NaN operand is false. On data that are not NaN the comparisons order by
value, FMIN.S and FMAX.S give the lower and the upper of their operands, a zero of either sign being one value with -0 the
lower datum. -/
def Obligations.ComparisonsOrderData : Prop :=
  ∀ a b : Word,
    (isNanDatum a ∨ isNanDatum b → fEq a b = false ∧ fLt a b = false ∧ fLe a b = false) ∧
    (¬isNanDatum a → ¬isNanDatum b →
      (fEq a b = true ↔ datum a = datum b) ∧ (fLt a b = true ↔ datum a < datum b) ∧
      fLe a b = (fLt a b || fEq a b) ∧
      (fMin a b = a ∨ fMin a b = b) ∧ (fMax a b = a ∨ fMax a b = b) ∧
      datum (fMin a b) = min (datum a) (datum b) ∧ datum (fMax a b) = max (datum a) (datum b) ∧
      (datum a = datum b → ((fMin a b).getLsbD 31 = (a.getLsbD 31 || b.getLsbD 31)) ∧
        ((fMax a b).getLsbD 31 = (a.getLsbD 31 && b.getLsbD 31))))

/-- R362-R366, R374, R375, R380: each operation's result on finite data a, b, c, or on the integer w, with the exact real
that it rounds. What is no real number (a quotient by zero, the root of a negative) reads as 0 here, and the statements ask
for another `X`. -/
def exactResult (r : Rounding) (a b c w v : Word) (X : ℝ) : Prop :=
  (v, X) ∈ [(fAdd r a b, (datum a + datum b : ℝ)), (fSub r a b, (datum a - datum b : ℝ)),
    (fMul r a b, (datum a * datum b : ℝ)), (fDiv r a b, (datum a / datum b : ℝ)),
    (fSqrt r a, Real.sqrt (datum a)), (fMulAdd r a b c, (datum a * datum b + datum c : ℝ)),
    (fOfInt r w.toInt, (w.toInt : ℝ)), (fOfInt r w.toNat, (w.toNat : ℝ))]

/-- R372, R373: an integer put into the range of the conversion's result. -/
def clampSigned (n : ℤ) : Word := BitVec.ofInt 32 (max (-2 ^ 31) (min n (2 ^ 31 - 1)))

def clampUnsigned (n : ℤ) : Word := BitVec.ofInt 32 (max 0 (min n (2 ^ 32 - 1)))

/-- R386 with R362-R366, R374, R375, R380, in RTZ, RDN and RUP: each result is the datum the mode selects for the exact
value, overflow included. R372, R373: a finite datum converts to the integer below, above or toward zero, clamped. -/
def Obligations.DirectedRoundingBrackets : Prop :=
  (∀ (r : Rounding) (a b c w v : Word) (X : ℝ), r ∈ [Rounding.rtz, .rdn, .rup] → isFinite a → isFinite b → isFinite c →
    exactResult r a b c w v X → X ≠ 0 → roundsTo r X v) ∧
  (∀ (r : Rounding) (a : Word) (n : ℤ), isFinite a →
    (r, n) ∈ [(Rounding.rdn, ⌊datum a⌋), (.rup, ⌈datum a⌉), (.rtz, if datum a < 0 then ⌈datum a⌉ else ⌊datum a⌋)] →
    fToSigned r a = clampSigned n ∧ fToUnsigned r a = clampUnsigned n)

/-- R386 with R362-R366, R374, R375, R380, in RNE and RMM: each result is the nearest datum to the exact value, of two
equally near ones the even one (RNE) or the one away from zero (RMM), and infinity where rounding reaches 2^128. R372,
R373: a finite datum converts to the nearest integer by the same rule, clamped. -/
def Obligations.NearestRoundingIsClosest : Prop :=
  (∀ (r : Rounding) (a b c w v : Word) (X : ℝ), r ∈ [Rounding.rne, .rmm] → isFinite a → isFinite b → isFinite c →
    exactResult r a b c w v X → X ≠ 0 → roundsTo r X v) ∧
  (∀ (r : Rounding) (a : Word), r ∈ [Rounding.rne, .rmm] → isFinite a →
    ∃ n : ℤ, fToSigned r a = clampSigned n ∧ fToUnsigned r a = clampUnsigned n ∧ |(n : ℚ) - datum a| ≤ 1 / 2 ∧
      (|(n : ℚ) - datum a| = 1 / 2 → (r = .rne → n % 2 = 0) ∧ (r = .rmm → |datum a| < |(n : ℚ)|)))

/-! ## Traps and interrupts (spec/60) -/

/-- R522 with the vector of R523: entry into M-mode, `mstatus` bit by bit. -/
def Obligations.TrapEntersMachineMode : Prop :=
  ∀ (t : Trap) (v : Word) (s u : State), trapToS t s = false → trapEntry t v s = u →
    u.csr.mepc = s.pc ∧ u.csr.mtval = v ∧
    u.csr.mcause = (if trapIsInterrupt t then 0x80000000#32 else 0#32) + BitVec.ofNat 32 (trapCode t) ∧
    (∀ k, k < 32 → u.csr.mstatus.getLsbD k =
      if k = 7 then s.csr.mstatus.getLsbD 3 else if k = 3 then false
      else if k = 11 then s.priv.toBits.getLsbD 0 else if k = 12 then s.priv.toBits.getLsbD 1
      else s.csr.mstatus.getLsbD k) ∧
    u.priv = .m ∧
    u.pc = (s.csr.mtvec &&& 0xFFFFFFFC#32) +
      (if s.csr.mtvec.getLsbD 0 = true ∧ trapIsInterrupt t = true then BitVec.ofNat 32 (4 * trapCode t) else 0#32) ∧
    u.csr.sepc = s.csr.sepc ∧ u.csr.scause = s.csr.scause ∧ u.csr.stval = s.csr.stval ∧ s.sameButTrap u

/-- R521 with the vector of R523: entry into S-mode, which R520 takes iff the trap is raised below M and delegated;
`mstatus` bit by bit. -/
def Obligations.TrapEntersSupervisorMode : Prop :=
  ∀ (t : Trap) (v : Word) (s u : State), trapEntry t v s = u →
    (trapToS t s = true ↔ s.priv ≠ .m ∧
      (if trapIsInterrupt t then s.csr.mideleg else s.csr.medeleg).getLsbD (trapCode t) = true) ∧
    (trapToS t s = true →
      u.csr.sepc = s.pc ∧ u.csr.stval = v ∧
      u.csr.scause = (if trapIsInterrupt t then 0x80000000#32 else 0#32) + BitVec.ofNat 32 (trapCode t) ∧
      (∀ k, k < 32 → u.csr.mstatus.getLsbD k =
        if k = 5 then s.csr.mstatus.getLsbD 1 else if k = 1 then false
        else if k = 8 then s.priv == .s else s.csr.mstatus.getLsbD k) ∧
      u.priv = .s ∧
      u.pc = (s.csr.stvec &&& 0xFFFFFFFC#32) +
        (if s.csr.stvec.getLsbD 0 = true ∧ trapIsInterrupt t = true then BitVec.ofNat 32 (4 * trapCode t) else 0#32) ∧
      u.csr.mepc = s.csr.mepc ∧ u.csr.mcause = s.csr.mcause ∧ u.csr.mtval = s.csr.mtval ∧ s.sameButTrap u)

/-- R512: the flag `irq[c]` that `exec()` starts with says that the interrupt is pending, enabled, and enabled in this
mode by its delegation. R510: the one taken is first in the order 11, 3, 7, 9, 1, 5. -/
def Obligations.InterruptsAreGatedAndOrdered : Prop :=
  ∀ (s : State) (j : Interrupt),
    ((j, true) ∈ [(Interrupt.mei, s.beginExec.flags.irq.mei), (.msi, s.beginExec.flags.irq.msi),
        (.mti, s.beginExec.flags.irq.mti), (.sei, s.beginExec.flags.irq.sei), (.ssi, s.beginExec.flags.irq.ssi),
        (.sti, s.beginExec.flags.irq.sti)] ↔ s.mayTake j) ∧
    (takeableInterrupt s = some j ↔ s.mayTake j ∧ ∀ k, interruptRank k < interruptRank j → ¬s.mayTake k)

/-- R540, R520: in U-mode an instruction that does not trap changes neither the mode nor any CSR; one that traps enters S
exactly if `medeleg` delegates its cause and M otherwise, as R521 and R522 say, with no register and no CSR changed but
the trap registers of the mode entered and `mstatus`. -/
def Obligations.UserModeIsContained : Prop :=
  ∀ (i : Instr) (s t : State), s.priv = .u → s.flags.isException = false → exec i s = .next t →
    (t.flags.isException = false → t.priv = .u ∧ t.csr = s.csr) ∧
    (t.flags.isException = true → t.x = s.x ∧ t.priv ≠ .u ∧
      (∃ e v, s.tookException t e v ∧ (t.priv = .s ↔ s.csr.medeleg.getLsbD (excCode e) = true)) ∧
      (t.priv = .s → t.csr.mepc = s.csr.mepc ∧ t.csr.mcause = s.csr.mcause ∧ t.csr.mtval = s.csr.mtval) ∧
      (t.priv = .m → t.csr.sepc = s.csr.sepc ∧ t.csr.scause = s.csr.scause ∧ t.csr.stval = s.csr.stval) ∧
      { t.csr with
        mepc := s.csr.mepc, mcause := s.csr.mcause, mtval := s.csr.mtval, sepc := s.csr.sepc
        scause := s.csr.scause, stval := s.csr.stval, mstatus := s.csr.mstatus } = s.csr)

/-- The address of the level-1 PTE of a virtual address (R110, R112). -/
def rootPteAddress (s : State) (va : Word) : Word :=
  ((s.csr.satp.extractLsb' 0 20).setWidth 32 <<< 12) + ((va.extractLsb' 22 10).setWidth 32 <<< 2)

/-- The address of the level-0 PTE below a pointer PTE (R110, R112). -/
def nextPteAddress (pte va : Word) : Word :=
  ((pte.extractLsb' 10 20).setWidth 32 <<< 12) + ((va.extractLsb' 12 10).setWidth 32 <<< 2)

/-- R51, R131, R300, R301 and R60, R118, R130: only LR.W and SC.W touch the reservation. Only SFENCE.VMA and a CSR
instruction that reaches `satp` empty PTW-cache entries; a load, store, LR.W, SC.W or AMO leaves the cache as its own
translation does (R279): untouched if there is none, and otherwise but for entries filled with the PTEs of its walk, the
level-0 one being found through the level-1 pointer that the walk reads. -/
def Obligations.ReservationAndCacheTouchedOnlyByTheirOwn : Prop :=
  ∀ (i : Instr) (s t : State), exec i s = .next t →
    ((∀ rd rs1 aq rl, i ≠ .lrW rd rs1 aq rl) → (∀ rd rs1 rs2 aq rl, i ≠ .scW rd rs1 rs2 aq rl) → t.res = s.res) ∧
    (preDecode i s = none → (∀ rs1 rs2, i ≠ .sfenceVma rs1 rs2) →
      (∀ rd rs1 uimm j, (∃ w v, (j, w, v) ∈ csrForms rd rs1 uimm 0x180#12 s 0#32) → i ≠ j) → t.ptw = s.ptw) ∧
    (∀ m, preDecode i s = some m →
      (m.va.toNat % m.size ≠ 0 ∨ s.csr.satp.getLsbD 31 = false ∨ effPriv s m.type = .m → t.ptw = s.ptw) ∧
      (m.va.toNat % m.size = 0 → t.ptw = (translate s m.va m.type).2.ptw) ∧
      ∀ k : Fin 512, t.ptw[k] = s.ptw[k] ∨
        ∃ pa, (pa = rootPteAddress s m.va ∨
            ∃ p1, s.pteReads (rootPteAddress s m.va) p1 ∧ p1.getLsbD 0 = true ∧ p1.extractLsb' 1 3 = 0#3 ∧
              pa = nextPteAddress p1 m.va) ∧
          (pa.extractLsb' 2 9).toNat = k.val ∧ s.inBounds pa = true ∧ s.readsOk pa ∧
          t.ptw[k] = { valid := true, tag := pa.extractLsb' 11 21, data := s.slave.mem.readWord pa }) ∧
    (preDecode i s = none → t.slave = s.slave ∧ t.mirror = s.mirror ∧ t.uartOut = s.uartOut)

/-! ## Translation (spec/20) -/

/-- R110, R114, R116: a leaf PTE that this access may use, by the bits of R113. -/
def leafUsable (s : State) (ty : Access) (pte : Word) : Prop :=
  pte.getLsbD 0 = true ∧ ¬(pte.getLsbD 1 = false ∧ pte.getLsbD 2 = true) ∧
  (pte.getLsbD 1 = true ∨ pte.getLsbD 3 = true) ∧
  (ty = .fetch → pte.getLsbD 3 = true) ∧
  (ty = .load → pte.getLsbD 1 = true ∨ (s.csr.mstatus.getLsbD 19 = true ∧ pte.getLsbD 3 = true)) ∧
  (ty = .store → pte.getLsbD 2 = true ∧ pte.getLsbD 7 = true) ∧
  (effPriv s ty = .u → pte.getLsbD 4 = true) ∧
  (effPriv s ty = .s → pte.getLsbD 4 = true → ty ≠ .fetch ∧ s.csr.mstatus.getLsbD 18 = true) ∧
  pte.getLsbD 6 = true

/-- R110-R118: translation is the two-level walk. A usable level-1 leaf maps 4 MiB, a usable level-0 leaf 4 KiB, a PTE
that cannot be read is an access fault, everything else a page fault; each PTE comes from the PTW cache if it holds it and
fills it otherwise, and a filled entry is a hit for its own word address alone (R60). -/
def Obligations.WalkFollowsPageTables : Prop :=
  (∀ (s : State) (va : Word) (ty : Access), s.csr.satp.getLsbD 31 = false ∨ effPriv s ty = .m →
    translate s va ty = (.ok va, s)) ∧
  (∀ (s : State) (va : Word) (ty : Access), s.csr.satp.getLsbD 31 = true → effPriv s ty ≠ .m →
    (s.pteFails (rootPteAddress s va) →
      (translate s va ty).1 = .accessFault ∧ (translate s va ty).2.ptw = s.ptw) ∧
    ∀ p1, s.pteReads (rootPteAddress s va) p1 →
      (leafUsable s ty p1 → p1.extractLsb' 10 10 = 0#10 →
        (translate s va ty).1 =
          .ok ((p1.extractLsb' 20 10).setWidth 32 <<< 22 ||| (va.extractLsb' 0 22).setWidth 32)) ∧
      ((p1.getLsbD 1 = true ∨ p1.getLsbD 3 = true) → ¬(leafUsable s ty p1 ∧ p1.extractLsb' 10 10 = 0#10) →
        (translate s va ty).1 = .pageFault) ∧
      (p1.getLsbD 0 = false ∨ (p1.getLsbD 1 = false ∧ p1.getLsbD 2 = true) → (translate s va ty).1 = .pageFault) ∧
      (p1.getLsbD 0 = false ∨ p1.extractLsb' 1 3 ≠ 0#3 →
        (translate s va ty).2.ptw = (s.afterPteRead (rootPteAddress s va) p1).ptw) ∧
      (p1.getLsbD 0 = true → p1.extractLsb' 1 3 = 0#3 →
        ∀ s1, s1 = s.afterPteRead (rootPteAddress s va) p1 →
          (s1.pteFails (nextPteAddress p1 va) →
            (translate s va ty).1 = .accessFault ∧ (translate s va ty).2.ptw = s1.ptw) ∧
          ∀ p0, s1.pteReads (nextPteAddress p1 va) p0 →
            (leafUsable s ty p0 → (translate s va ty).1 =
              .ok ((p0.extractLsb' 10 20).setWidth 32 <<< 12 ||| (va.extractLsb' 0 12).setWidth 32)) ∧
            (¬leafUsable s ty p0 → (translate s va ty).1 = .pageFault) ∧
            (translate s va ty).2.ptw = (s1.afterPteRead (nextPteAddress p1 va) p0).ptw)) ∧
  (∀ (s : State) (pa pb d : Word), (s.ptwFill pa d).ptwLookup pb =
    if pb.extractLsb' 2 30 = pa.extractLsb' 2 30 then some d
    else if pb.extractLsb' 2 9 = pa.extractLsb' 2 9 then none else s.ptwLookup pb)

/-! ## Invariants and the cycle level (spec/10, spec/50, spec/51) -/

/-- The reset state meets both invariants. -/
def Obligations.ResetIsLegal : Prop := State.reset.Legal ∧ State.reset.SlotsFollowStage

/-- R22, R34, R35, R37, R39-R41: hard-wired CSR bits read as the spec says, MPP is never 2, pc stays a multiple of 4, and
both memories keep their canonical form, through every step from every such state. -/
def Obligations.LegalKeptByStep : Prop :=
  ∀ s t : State, s.Legal → step s = .next t → t.Legal

/-- R67, R457: at most one request slot is active, and only in the stage that waits for it, through every tick with any
input. -/
def Obligations.SlotsFollowStageKeptByTick : Prop :=
  ∀ (inp : AxiIn) (s t : State), s.SlotsFollowStage → tick inp s = .next t → t.SlotsFollowStage

/-- R452-R455: each slot's request as it stands on the channels: ids 0, 5, 10 and 1, one beat of four bytes. -/
def Obligations.MasterSignalsShowTheSlot : Prop :=
  (∀ (b : Bus) (q : ReadReq) (id : BitVec 4),
    (q, id) ∈ [(b.fetchReq, 0#4), (b.loadReq, 5#4), (b.mmuReq, 10#4)] → b.atMostOne →
    (b.fetchReq.master, b.fetchReq.id, b.loadReq.master, b.loadReq.id, b.mmuReq.master, b.mmuReq.id) =
      (0#2, 0#2, 1#2, 1#2, 2#2, 2#2) →
    q.active = true → q.issued = false → q.totalBeats = 1 →
    (masterOutputs b).arvalid = true ∧ (masterOutputs b).araddr = q.addr ∧ (masterOutputs b).arid = id ∧
    (masterOutputs b).arlen = 0#8 ∧ (masterOutputs b).arsize = 2#3 ∧ (masterOutputs b).arburst = 1#2 ∧
    (masterOutputs b).rready = true ∧ (masterOutputs b).awvalid = false ∧ (masterOutputs b).wvalid = false ∧
    (masterOutputs b).bready = false) ∧
  (∀ (b : Bus) (d : Word), b.writeReq.active = true → b.writeReq.issued = false → b.writeReq.totalBeats = 1 →
    b.writeReq.beatsSeen = 0 → b.writeReq.wdata = [d] → b.writeReq.master = 0#2 → b.writeReq.id = 1#2 →
    (masterOutputs b).awvalid = true ∧ (masterOutputs b).awaddr = b.writeReq.addr ∧ (masterOutputs b).awid = 1#4 ∧
    (masterOutputs b).awlen = 0#8 ∧ (masterOutputs b).awsize = 2#3 ∧ (masterOutputs b).wvalid = true ∧
    (masterOutputs b).wdata = d ∧ (masterOutputs b).wstrb = b.writeReq.wstrb ∧ (masterOutputs b).wlast = true ∧
    (masterOutputs b).bready = true)

/-- R453, R454, R67: once raised, `arvalid` and `awvalid` and the whole payload of their channels (address, id, length,
size, burst) hold until the handshake, whatever the slave does, unless the machine halts. -/
def Obligations.RequestsStayUntilAccepted : Prop :=
  ∀ (inp : AxiIn) (s t : State), s.SlotsFollowStage → tick inp s = .next t → t.stage ≠ .halted →
    ((masterOutputs s.bus).arvalid = true → inp.arready = false →
      (masterOutputs t.bus).arvalid = true ∧ (masterOutputs t.bus).araddr = (masterOutputs s.bus).araddr ∧
      (masterOutputs t.bus).arid = (masterOutputs s.bus).arid ∧
      (masterOutputs t.bus).arlen = (masterOutputs s.bus).arlen ∧
      (masterOutputs t.bus).arsize = (masterOutputs s.bus).arsize ∧
      (masterOutputs t.bus).arburst = (masterOutputs s.bus).arburst) ∧
    ((masterOutputs s.bus).awvalid = true → inp.awready = false →
      (masterOutputs t.bus).awvalid = true ∧ (masterOutputs t.bus).awaddr = (masterOutputs s.bus).awaddr ∧
      (masterOutputs t.bus).awid = (masterOutputs s.bus).awid ∧
      (masterOutputs t.bus).awlen = (masterOutputs s.bus).awlen ∧
      (masterOutputs t.bus).awsize = (masterOutputs s.bus).awsize ∧
      (masterOutputs t.bus).awburst = (masterOutputs s.bus).awburst)

/-- R430, R433: for an instruction without a memory operand, fetched untranslated, the five ticks of the state machine
against the ideal slave are one step, the bus view aside. The store latch is empty, as every pass leaves it
(EachPassCountsOneInstruction). -/
def Obligations.FiveTicksMakeOneStep : Prop :=
  ∀ (s : State) (w : Word), s.ready → s.latch.store = false → s.ctl.simTime.toNat + 5 ≤ s.ctl.maxCycles.toNat →
    translationOn s .fetch = false → s.fetches w →
    (∀ i, decode w = .ok i → preDecode i s = none) →
    ∃ t u, idealTicks 5 s = .next t ∧ step s = .next u ∧ u.eqButBus t
end

