-- ==== Sys2Proof/Laws/Memory.lean ====
section
/-! SUPPORT. Memory: read after write, byte by byte and word by word, and the canonical form kept by every operation. -/

namespace Sys2Proof.Machine

/-! ## Bytes -/

/-- An address with a boot value reads as it while nothing is listed there. -/
theorem unlistedByte_of_bootByte {a : Nat} {b : Byte} (h : bootByte a = some b) : unlistedByte a = b := by
  simp [unlistedByte, h]

/-- Reading below the first entry of a canonical memory gives the unlisted value. -/
theorem Memory.readByte_of_wfFrom {lo a : Nat} {m : Memory} (h : Memory.wfFrom lo m = true) (ha : a < lo) :
    m.readByte a = unlistedByte a := by
  induction m generalizing lo with
  | nil => rfl
  | cons e t ih =>
    obtain ⟨k, b⟩ := e
    simp only [Memory.wfFrom, Bool.and_eq_true, decide_eq_true_eq] at h
    have hk : k ≠ a := by omega
    simp only [Memory.readByte, hk, if_false]
    exact ih h.2 (by omega)

theorem Memory.wfFrom_mono {lo lo' : Nat} {m : Memory} (h : Memory.wfFrom lo m = true) (hl : lo' ≤ lo) :
    Memory.wfFrom lo' m = true := by
  cases m with
  | nil => rfl
  | cons e t =>
    obtain ⟨k, b⟩ := e
    simp only [Memory.wfFrom, Bool.and_eq_true, decide_eq_true_eq] at h ⊢
    exact ⟨⟨⟨by omega, h.1.1.2⟩, h.1.2⟩, h.2⟩

/-- A byte write keeps the canonical form from any bound it does not undercut. -/
theorem Memory.wfFrom_writeByte {lo a : Nat} {m : Memory} {b : Byte} (h : Memory.wfFrom lo m = true) (hl : lo ≤ a)
    (ha : a < 2 ^ 32) : Memory.wfFrom lo (m.writeByte a b) = true := by
  induction m generalizing lo with
  | nil =>
    unfold Memory.writeByte
    split <;> simp_all [Memory.wfFrom]
  | cons e t ih =>
    obtain ⟨k, c⟩ := e
    simp only [Memory.wfFrom, Bool.and_eq_true, decide_eq_true_eq] at h
    obtain ⟨⟨⟨h1, h2⟩, h3⟩, h4⟩ := h
    unfold Memory.writeByte
    have e : ∀ {l n : Nat} {u : Memory} {x : Byte}, l ≤ n → n < 2 ^ 32 → (bootByte n != some x) = true →
        Memory.wfFrom (n + 1) u = true → Memory.wfFrom l ((n, x) :: u) = true := by
      intro l n u x e1 e2 e3 e4
      simp only [Memory.wfFrom, Bool.and_eq_true, decide_eq_true_eq]
      exact ⟨⟨⟨e1, e2⟩, e3⟩, e4⟩
    split
    · split
      · exact e h1 h2 h3 h4
      · exact e hl ha (by simpa using ‹¬bootByte a = some b›) (e (by omega) h2 h3 h4)
    · split
      · subst_vars
        split
        · exact Memory.wfFrom_mono h4 (by omega)
        · exact e h1 h2 (by simpa using ‹¬bootByte k = some b›) h4
      · exact e h1 h2 h3 (ih h4 (by omega))

/-- Every byte write keeps the canonical form. -/
theorem Memory.wf_writeByte {m : Memory} {a : Nat} {b : Byte} (h : m.wf = true) (ha : a < 2 ^ 32) :
    (m.writeByte a b).wf = true := Memory.wfFrom_writeByte h (Nat.zero_le a) ha

theorem Memory.readByte_writeByte_from {lo : Nat} {m : Memory} (h : Memory.wfFrom lo m = true) (a c : Nat) (b : Byte) :
    (m.writeByte a b).readByte c = if c = a then b else m.readByte c := by
  induction m generalizing lo with
  | nil =>
    unfold Memory.writeByte
    split
    · simp only [Memory.readByte]; split
      · subst_vars; exact unlistedByte_of_bootByte ‹_›
      · rfl
    · simp only [Memory.readByte]; grind
  | cons e t ih =>
    obtain ⟨k, d⟩ := e
    simp only [Memory.wfFrom, Bool.and_eq_true, decide_eq_true_eq] at h
    obtain ⟨⟨⟨h1, h2⟩, h3⟩, h4⟩ := h
    unfold Memory.writeByte
    split
    · split
      · by_cases hc : c = a
        · subst hc
          have hk : k ≠ c := by omega
          simp only [Memory.readByte, hk, if_false, if_true]
          rw [Memory.readByte_of_wfFrom h4 (by omega)]
          exact unlistedByte_of_bootByte ‹_›
        · simp [hc]
      · simp only [Memory.readByte]; grind
    · split
      · subst_vars
        split
        · by_cases hc : c = k
          · subst hc
            simp only [if_true]
            rw [Memory.readByte_of_wfFrom h4 (by omega)]
            exact unlistedByte_of_bootByte ‹_›
          · simp only [Memory.readByte, hc, if_false]
            have : ¬k = c := fun e => hc e.symm
            simp [this]
        · simp only [Memory.readByte]; grind
      · simp only [Memory.readByte, ih h4]; grind

/-- Read after write, for one byte: the written address gives the byte, every other address what it gave before. -/
theorem Memory.readByte_writeByte {m : Memory} (h : m.wf = true) (a c : Nat) (b : Byte) :
    (m.writeByte a b).readByte c = if c = a then b else m.readByte c := Memory.readByte_writeByte_from h a c b

/-! ## Lanes and words -/

theorem wordBase_lt (a : Word) (lane : Nat) (hl : lane < 4) : wordBase a + lane < 2 ^ 32 := by
  have := a.isLt
  unfold wordBase
  omega

theorem Memory.wf_writeLane {m : Memory} {a d : Word} {strb : BitVec 4} {lane : Nat} (h : m.wf = true) (hl : lane < 4) :
    (m.writeLane a d strb lane).wf = true := by
  unfold Memory.writeLane
  split
  · exact Memory.wf_writeByte h (wordBase_lt a lane hl)
  · exact h

/-- Every strobed write keeps the canonical form. -/
theorem Memory.wf_writeLanes {m : Memory} {a d : Word} {strb : BitVec 4} (h : m.wf = true) :
    (m.writeLanes a d strb).wf = true :=
  Memory.wf_writeLane (Memory.wf_writeLane (Memory.wf_writeLane (Memory.wf_writeLane h (by decide)) (by decide))
    (by decide)) (by decide)

/-- Every word write keeps the canonical form. -/
theorem Memory.wf_writeWord {m : Memory} {a d : Word} (h : m.wf = true) : (m.writeWord a d).wf = true :=
  Memory.wf_writeLanes h

theorem Memory.readByte_writeLane {m : Memory} (h : m.wf = true) (a d : Word) (strb : BitVec 4) (lane c : Nat) :
    (m.writeLane a d strb lane).readByte c =
      if strb.getLsbD lane = true ∧ c = wordBase a + lane then byteOfWord d lane else m.readByte c := by
  unfold Memory.writeLane
  split
  · rw [Memory.readByte_writeByte h]; simp_all
  · simp_all

/-- A byte after a strobed write: a byte of the word whose lane is enabled is the data's, every other byte is kept
(R464). -/
theorem Memory.readByte_writeLanes {m : Memory} (h : m.wf = true) (a d : Word) (strb : BitVec 4) (c : Nat) :
    (m.writeLanes a d strb).readByte c =
      if wordBase a ≤ c ∧ c < wordBase a + 4 ∧ strb.getLsbD (c - wordBase a) = true
      then byteOfWord d (c - wordBase a) else m.readByte c := by
  have h0 := Memory.wf_writeLane (a := a) (d := d) (strb := strb) h (lane := 0) (by decide)
  have h1 := Memory.wf_writeLane (a := a) (d := d) (strb := strb) h0 (lane := 1) (by decide)
  have h2 := Memory.wf_writeLane (a := a) (d := d) (strb := strb) h1 (lane := 2) (by decide)
  unfold Memory.writeLanes
  rw [Memory.readByte_writeLane h2, Memory.readByte_writeLane h1, Memory.readByte_writeLane h0,
    Memory.readByte_writeLane h]
  by_cases hr : wordBase a ≤ c ∧ c < wordBase a + 4
  · obtain ⟨k, rfl⟩ : ∃ k, c = wordBase a + k := ⟨c - wordBase a, by omega⟩
    have hk : k = 0 ∨ k = 1 ∨ k = 2 ∨ k = 3 := by omega
    rcases hk with rfl | rfl | rfl | rfl <;> simp
  · have n0 : c ≠ wordBase a + 0 := by omega
    have n1 : c ≠ wordBase a + 1 := by omega
    have n2 : c ≠ wordBase a + 2 := by omega
    have n3 : c ≠ wordBase a + 3 := by omega
    simp only [n0, n1, n2, n3, and_false, if_false]
    rw [if_neg (fun h => hr ⟨h.1, h.2.1⟩)]

/-- A byte after a word write. -/
theorem Memory.readByte_writeWord {m : Memory} (h : m.wf = true) (a d : Word) (c : Nat) :
    (m.writeWord a d).readByte c =
      if wordBase a ≤ c ∧ c < wordBase a + 4 then byteOfWord d (c - wordBase a) else m.readByte c := by
  unfold Memory.writeWord
  rw [Memory.readByte_writeLanes h]
  by_cases hr : wordBase a ≤ c ∧ c < wordBase a + 4
  · obtain ⟨k, rfl⟩ : ∃ k, c = wordBase a + k := ⟨c - wordBase a, by omega⟩
    have hk : k = 0 ∨ k = 1 ∨ k = 2 ∨ k = 3 := by omega
    rcases hk with rfl | rfl | rfl | rfl <;> simp
  · rw [if_neg (fun h => hr ⟨h.1, h.2.1⟩), if_neg hr]

/-- The four bytes of a word are the word (R90). -/
theorem wordOfBytes_byteOfWord (w : Word) :
    wordOfBytes (byteOfWord w 0) (byteOfWord w 1) (byteOfWord w 2) (byteOfWord w 3) = w := by
  apply BitVec.eq_of_getLsbD_eq
  intro i hi
  simp only [wordOfBytes, byteOfWord, BitVec.getLsbD_or, BitVec.getLsbD_shiftLeft, BitVec.getLsbD_setWidth,
    BitVec.getLsbD_extractLsb']
  grind

/-- Read after write, for one word. -/
theorem Memory.readWord_writeWord {m : Memory} (h : m.wf = true) (a d : Word) :
    (m.writeWord a d).readWord a = d := by
  unfold Memory.readWord
  rw [Memory.readByte_writeWord h, Memory.readByte_writeWord h, Memory.readByte_writeWord h,
    Memory.readByte_writeWord h]
  have e1 : wordBase a + 1 - wordBase a = 1 := by omega
  have e2 : wordBase a + 2 - wordBase a = 2 := by omega
  have e3 : wordBase a + 3 - wordBase a = 3 := by omega
  simp [e1, e2, e3, wordOfBytes_byteOfWord]

/-- A read of another word is not changed by a strobed write. -/
theorem Memory.readWord_writeLanes_other {m : Memory} (h : m.wf = true) {a b : Word} (d : Word) (strb : BitVec 4)
    (hne : wordBase a ≠ wordBase b) : (m.writeLanes a d strb).readWord b = m.readWord b := by
  unfold Memory.readWord
  have hb : ∀ k, k < 4 → ¬(wordBase a ≤ wordBase b + k ∧ wordBase b + k < wordBase a + 4 ∧
      strb.getLsbD (wordBase b + k - wordBase a) = true) := by
    intro k hk hc
    unfold wordBase at *
    omega
  rw [Memory.readByte_writeLanes h, Memory.readByte_writeLanes h, Memory.readByte_writeLanes h,
    Memory.readByte_writeLanes h, if_neg (hb 1 (by decide)), if_neg (hb 2 (by decide)), if_neg (hb 3 (by decide)),
    if_neg (by simpa using hb 0 (by decide))]

/-! ## The empty memory -/

theorem Memory.wf_nil : Memory.wf [] = true := rfl

theorem Memory.readByte_nil (a : Nat) : Memory.readByte [] a = unlistedByte a := rfl

end Sys2Proof.Machine
end

