-- ==== Sys2Proof/Laws/State.lean ====
section
/-! SUPPORT. What each named update of the state leaves alone, field by field, and what it does to the register file:
later proofs rewrite with these and do not unfold a record update. -/

namespace Sys2Proof.Machine

section Frames
variable (s : State)

@[simp] theorem setReg_pc (r : Reg) (v : Word) : (s.setReg r v).pc = s.pc := by unfold State.setReg; split <;> rfl
@[simp] theorem setReg_priv (r : Reg) (v : Word) : (s.setReg r v).priv = s.priv := by unfold State.setReg; split <;> rfl
@[simp] theorem setReg_csr (r : Reg) (v : Word) : (s.setReg r v).csr = s.csr := by unfold State.setReg; split <;> rfl
@[simp] theorem setReg_flags (r : Reg) (v : Word) : (s.setReg r v).flags = s.flags := by unfold State.setReg; split <;> rfl
@[simp] theorem setReg_latch (r : Reg) (v : Word) : (s.setReg r v).latch = s.latch := by unfold State.setReg; split <;> rfl
@[simp] theorem setReg_res (r : Reg) (v : Word) : (s.setReg r v).res = s.res := by unfold State.setReg; split <;> rfl
@[simp] theorem setReg_ptw (r : Reg) (v : Word) : (s.setReg r v).ptw = s.ptw := by unfold State.setReg; split <;> rfl
@[simp] theorem setReg_stage (r : Reg) (v : Word) : (s.setReg r v).stage = s.stage := by unfold State.setReg; split <;> rfl
@[simp] theorem setReg_instWord (r : Reg) (v : Word) : (s.setReg r v).instWord = s.instWord := by unfold State.setReg; split <;> rfl
@[simp] theorem setReg_fetchPaddr (r : Reg) (v : Word) : (s.setReg r v).fetchPaddr = s.fetchPaddr := by unfold State.setReg; split <;> rfl
@[simp] theorem setReg_memop (r : Reg) (v : Word) : (s.setReg r v).memop = s.memop := by unfold State.setReg; split <;> rfl
@[simp] theorem setReg_bus (r : Reg) (v : Word) : (s.setReg r v).bus = s.bus := by unfold State.setReg; split <;> rfl
@[simp] theorem setReg_ctl (r : Reg) (v : Word) : (s.setReg r v).ctl = s.ctl := by unfold State.setReg; split <;> rfl
@[simp] theorem setReg_status (r : Reg) (v : Word) : (s.setReg r v).status = s.status := by unfold State.setReg; split <;> rfl
@[simp] theorem setReg_mirror (r : Reg) (v : Word) : (s.setReg r v).mirror = s.mirror := by unfold State.setReg; split <;> rfl
@[simp] theorem setReg_slave (r : Reg) (v : Word) : (s.setReg r v).slave = s.slave := by unfold State.setReg; split <;> rfl
@[simp] theorem setReg_uartOut (r : Reg) (v : Word) : (s.setReg r v).uartOut = s.uartOut := by unfold State.setReg; split <;> rfl
@[simp] theorem setReg_draws (r : Reg) (v : Word) : (s.setReg r v).draws = s.draws := by unfold State.setReg; split <;> rfl
@[simp] theorem setReg_cfg (r : Reg) (v : Word) : (s.setReg r v).cfg = s.cfg := by unfold State.setReg; split <;> rfl

@[simp] theorem advancePc_x : (s.advancePc).x = s.x := rfl
@[simp] theorem advancePc_priv : (s.advancePc).priv = s.priv := rfl
@[simp] theorem advancePc_csr : (s.advancePc).csr = s.csr := rfl
@[simp] theorem advancePc_flags : (s.advancePc).flags = s.flags := rfl
@[simp] theorem advancePc_latch : (s.advancePc).latch = s.latch := rfl
@[simp] theorem advancePc_res : (s.advancePc).res = s.res := rfl
@[simp] theorem advancePc_ptw : (s.advancePc).ptw = s.ptw := rfl
@[simp] theorem advancePc_stage : (s.advancePc).stage = s.stage := rfl
@[simp] theorem advancePc_instWord : (s.advancePc).instWord = s.instWord := rfl
@[simp] theorem advancePc_fetchPaddr : (s.advancePc).fetchPaddr = s.fetchPaddr := rfl
@[simp] theorem advancePc_memop : (s.advancePc).memop = s.memop := rfl
@[simp] theorem advancePc_bus : (s.advancePc).bus = s.bus := rfl
@[simp] theorem advancePc_ctl : (s.advancePc).ctl = s.ctl := rfl
@[simp] theorem advancePc_status : (s.advancePc).status = s.status := rfl
@[simp] theorem advancePc_mirror : (s.advancePc).mirror = s.mirror := rfl
@[simp] theorem advancePc_slave : (s.advancePc).slave = s.slave := rfl
@[simp] theorem advancePc_uartOut : (s.advancePc).uartOut = s.uartOut := rfl
@[simp] theorem advancePc_draws : (s.advancePc).draws = s.draws := rfl
@[simp] theorem advancePc_cfg : (s.advancePc).cfg = s.cfg := rfl
@[simp] theorem advancePc_reg (q : Reg) : (s.advancePc).reg q = s.reg q := by simp [State.reg]

@[simp] theorem writeRd_priv (r : Reg) (v : Word) : (s.writeRd r v).priv = s.priv := by simp [State.writeRd]
@[simp] theorem writeRd_csr (r : Reg) (v : Word) : (s.writeRd r v).csr = s.csr := by simp [State.writeRd]
@[simp] theorem writeRd_flags (r : Reg) (v : Word) : (s.writeRd r v).flags = s.flags := by simp [State.writeRd]
@[simp] theorem writeRd_latch (r : Reg) (v : Word) : (s.writeRd r v).latch = s.latch := by simp [State.writeRd]
@[simp] theorem writeRd_res (r : Reg) (v : Word) : (s.writeRd r v).res = s.res := by simp [State.writeRd]
@[simp] theorem writeRd_ptw (r : Reg) (v : Word) : (s.writeRd r v).ptw = s.ptw := by simp [State.writeRd]
@[simp] theorem writeRd_stage (r : Reg) (v : Word) : (s.writeRd r v).stage = s.stage := by simp [State.writeRd]
@[simp] theorem writeRd_instWord (r : Reg) (v : Word) : (s.writeRd r v).instWord = s.instWord := by simp [State.writeRd]
@[simp] theorem writeRd_fetchPaddr (r : Reg) (v : Word) : (s.writeRd r v).fetchPaddr = s.fetchPaddr := by simp [State.writeRd]
@[simp] theorem writeRd_memop (r : Reg) (v : Word) : (s.writeRd r v).memop = s.memop := by simp [State.writeRd]
@[simp] theorem writeRd_bus (r : Reg) (v : Word) : (s.writeRd r v).bus = s.bus := by simp [State.writeRd]
@[simp] theorem writeRd_ctl (r : Reg) (v : Word) : (s.writeRd r v).ctl = s.ctl := by simp [State.writeRd]
@[simp] theorem writeRd_status (r : Reg) (v : Word) : (s.writeRd r v).status = s.status := by simp [State.writeRd]
@[simp] theorem writeRd_mirror (r : Reg) (v : Word) : (s.writeRd r v).mirror = s.mirror := by simp [State.writeRd]
@[simp] theorem writeRd_slave (r : Reg) (v : Word) : (s.writeRd r v).slave = s.slave := by simp [State.writeRd]
@[simp] theorem writeRd_uartOut (r : Reg) (v : Word) : (s.writeRd r v).uartOut = s.uartOut := by simp [State.writeRd]
@[simp] theorem writeRd_draws (r : Reg) (v : Word) : (s.writeRd r v).draws = s.draws := by simp [State.writeRd]
@[simp] theorem writeRd_cfg (r : Reg) (v : Word) : (s.writeRd r v).cfg = s.cfg := by simp [State.writeRd]

@[simp] theorem tickBy_x (n : Nat) : (s.tickBy n).x = s.x := rfl
@[simp] theorem tickBy_pc (n : Nat) : (s.tickBy n).pc = s.pc := rfl
@[simp] theorem tickBy_priv (n : Nat) : (s.tickBy n).priv = s.priv := rfl
@[simp] theorem tickBy_csr (n : Nat) : (s.tickBy n).csr = s.csr := rfl
@[simp] theorem tickBy_flags (n : Nat) : (s.tickBy n).flags = s.flags := rfl
@[simp] theorem tickBy_latch (n : Nat) : (s.tickBy n).latch = s.latch := rfl
@[simp] theorem tickBy_res (n : Nat) : (s.tickBy n).res = s.res := rfl
@[simp] theorem tickBy_ptw (n : Nat) : (s.tickBy n).ptw = s.ptw := rfl
@[simp] theorem tickBy_stage (n : Nat) : (s.tickBy n).stage = s.stage := rfl
@[simp] theorem tickBy_instWord (n : Nat) : (s.tickBy n).instWord = s.instWord := rfl
@[simp] theorem tickBy_fetchPaddr (n : Nat) : (s.tickBy n).fetchPaddr = s.fetchPaddr := rfl
@[simp] theorem tickBy_memop (n : Nat) : (s.tickBy n).memop = s.memop := rfl
@[simp] theorem tickBy_bus (n : Nat) : (s.tickBy n).bus = s.bus := rfl
@[simp] theorem tickBy_status (n : Nat) : (s.tickBy n).status = s.status := rfl
@[simp] theorem tickBy_mirror (n : Nat) : (s.tickBy n).mirror = s.mirror := rfl
@[simp] theorem tickBy_slave (n : Nat) : (s.tickBy n).slave = s.slave := rfl
@[simp] theorem tickBy_uartOut (n : Nat) : (s.tickBy n).uartOut = s.uartOut := rfl
@[simp] theorem tickBy_draws (n : Nat) : (s.tickBy n).draws = s.draws := rfl
@[simp] theorem tickBy_cfg (n : Nat) : (s.tickBy n).cfg = s.cfg := rfl
@[simp] theorem tickBy_reg (n : Nat) (q : Reg) : (s.tickBy n).reg q = s.reg q := by simp [State.reg]

@[simp] theorem ptwFill_x (a d : Word) : (s.ptwFill a d).x = s.x := rfl
@[simp] theorem ptwFill_pc (a d : Word) : (s.ptwFill a d).pc = s.pc := rfl
@[simp] theorem ptwFill_priv (a d : Word) : (s.ptwFill a d).priv = s.priv := rfl
@[simp] theorem ptwFill_csr (a d : Word) : (s.ptwFill a d).csr = s.csr := rfl
@[simp] theorem ptwFill_flags (a d : Word) : (s.ptwFill a d).flags = s.flags := rfl
@[simp] theorem ptwFill_latch (a d : Word) : (s.ptwFill a d).latch = s.latch := rfl
@[simp] theorem ptwFill_res (a d : Word) : (s.ptwFill a d).res = s.res := rfl
@[simp] theorem ptwFill_stage (a d : Word) : (s.ptwFill a d).stage = s.stage := rfl
@[simp] theorem ptwFill_instWord (a d : Word) : (s.ptwFill a d).instWord = s.instWord := rfl
@[simp] theorem ptwFill_fetchPaddr (a d : Word) : (s.ptwFill a d).fetchPaddr = s.fetchPaddr := rfl
@[simp] theorem ptwFill_memop (a d : Word) : (s.ptwFill a d).memop = s.memop := rfl
@[simp] theorem ptwFill_bus (a d : Word) : (s.ptwFill a d).bus = s.bus := rfl
@[simp] theorem ptwFill_ctl (a d : Word) : (s.ptwFill a d).ctl = s.ctl := rfl
@[simp] theorem ptwFill_status (a d : Word) : (s.ptwFill a d).status = s.status := rfl
@[simp] theorem ptwFill_mirror (a d : Word) : (s.ptwFill a d).mirror = s.mirror := rfl
@[simp] theorem ptwFill_slave (a d : Word) : (s.ptwFill a d).slave = s.slave := rfl
@[simp] theorem ptwFill_uartOut (a d : Word) : (s.ptwFill a d).uartOut = s.uartOut := rfl
@[simp] theorem ptwFill_draws (a d : Word) : (s.ptwFill a d).draws = s.draws := rfl
@[simp] theorem ptwFill_cfg (a d : Word) : (s.ptwFill a d).cfg = s.cfg := rfl
@[simp] theorem ptwFill_reg (a d : Word) (q : Reg) : (s.ptwFill a d).reg q = s.reg q := by simp [State.reg]

@[simp] theorem ptwFlush_x : (s.ptwFlush).x = s.x := rfl
@[simp] theorem ptwFlush_pc : (s.ptwFlush).pc = s.pc := rfl
@[simp] theorem ptwFlush_priv : (s.ptwFlush).priv = s.priv := rfl
@[simp] theorem ptwFlush_csr : (s.ptwFlush).csr = s.csr := rfl
@[simp] theorem ptwFlush_flags : (s.ptwFlush).flags = s.flags := rfl
@[simp] theorem ptwFlush_latch : (s.ptwFlush).latch = s.latch := rfl
@[simp] theorem ptwFlush_res : (s.ptwFlush).res = s.res := rfl
@[simp] theorem ptwFlush_stage : (s.ptwFlush).stage = s.stage := rfl
@[simp] theorem ptwFlush_instWord : (s.ptwFlush).instWord = s.instWord := rfl
@[simp] theorem ptwFlush_fetchPaddr : (s.ptwFlush).fetchPaddr = s.fetchPaddr := rfl
@[simp] theorem ptwFlush_memop : (s.ptwFlush).memop = s.memop := rfl
@[simp] theorem ptwFlush_bus : (s.ptwFlush).bus = s.bus := rfl
@[simp] theorem ptwFlush_ctl : (s.ptwFlush).ctl = s.ctl := rfl
@[simp] theorem ptwFlush_status : (s.ptwFlush).status = s.status := rfl
@[simp] theorem ptwFlush_mirror : (s.ptwFlush).mirror = s.mirror := rfl
@[simp] theorem ptwFlush_slave : (s.ptwFlush).slave = s.slave := rfl
@[simp] theorem ptwFlush_uartOut : (s.ptwFlush).uartOut = s.uartOut := rfl
@[simp] theorem ptwFlush_draws : (s.ptwFlush).draws = s.draws := rfl
@[simp] theorem ptwFlush_cfg : (s.ptwFlush).cfg = s.cfg := rfl
@[simp] theorem ptwFlush_reg (q : Reg) : (s.ptwFlush).reg q = s.reg q := by simp [State.reg]

@[simp] theorem clearFaultFlags_x : (s.clearFaultFlags).x = s.x := rfl
@[simp] theorem clearFaultFlags_pc : (s.clearFaultFlags).pc = s.pc := rfl
@[simp] theorem clearFaultFlags_priv : (s.clearFaultFlags).priv = s.priv := rfl
@[simp] theorem clearFaultFlags_csr : (s.clearFaultFlags).csr = s.csr := rfl
@[simp] theorem clearFaultFlags_latch : (s.clearFaultFlags).latch = s.latch := rfl
@[simp] theorem clearFaultFlags_res : (s.clearFaultFlags).res = s.res := rfl
@[simp] theorem clearFaultFlags_ptw : (s.clearFaultFlags).ptw = s.ptw := rfl
@[simp] theorem clearFaultFlags_stage : (s.clearFaultFlags).stage = s.stage := rfl
@[simp] theorem clearFaultFlags_instWord : (s.clearFaultFlags).instWord = s.instWord := rfl
@[simp] theorem clearFaultFlags_fetchPaddr : (s.clearFaultFlags).fetchPaddr = s.fetchPaddr := rfl
@[simp] theorem clearFaultFlags_memop : (s.clearFaultFlags).memop = s.memop := rfl
@[simp] theorem clearFaultFlags_bus : (s.clearFaultFlags).bus = s.bus := rfl
@[simp] theorem clearFaultFlags_ctl : (s.clearFaultFlags).ctl = s.ctl := rfl
@[simp] theorem clearFaultFlags_status : (s.clearFaultFlags).status = s.status := rfl
@[simp] theorem clearFaultFlags_mirror : (s.clearFaultFlags).mirror = s.mirror := rfl
@[simp] theorem clearFaultFlags_slave : (s.clearFaultFlags).slave = s.slave := rfl
@[simp] theorem clearFaultFlags_uartOut : (s.clearFaultFlags).uartOut = s.uartOut := rfl
@[simp] theorem clearFaultFlags_draws : (s.clearFaultFlags).draws = s.draws := rfl
@[simp] theorem clearFaultFlags_cfg : (s.clearFaultFlags).cfg = s.cfg := rfl
@[simp] theorem clearFaultFlags_reg (q : Reg) : (s.clearFaultFlags).reg q = s.reg q := by simp [State.reg]

@[simp] theorem clearDataFlags_x : (s.clearDataFlags).x = s.x := rfl
@[simp] theorem clearDataFlags_pc : (s.clearDataFlags).pc = s.pc := rfl
@[simp] theorem clearDataFlags_priv : (s.clearDataFlags).priv = s.priv := rfl
@[simp] theorem clearDataFlags_csr : (s.clearDataFlags).csr = s.csr := rfl
@[simp] theorem clearDataFlags_latch : (s.clearDataFlags).latch = s.latch := rfl
@[simp] theorem clearDataFlags_res : (s.clearDataFlags).res = s.res := rfl
@[simp] theorem clearDataFlags_ptw : (s.clearDataFlags).ptw = s.ptw := rfl
@[simp] theorem clearDataFlags_stage : (s.clearDataFlags).stage = s.stage := rfl
@[simp] theorem clearDataFlags_instWord : (s.clearDataFlags).instWord = s.instWord := rfl
@[simp] theorem clearDataFlags_fetchPaddr : (s.clearDataFlags).fetchPaddr = s.fetchPaddr := rfl
@[simp] theorem clearDataFlags_memop : (s.clearDataFlags).memop = s.memop := rfl
@[simp] theorem clearDataFlags_bus : (s.clearDataFlags).bus = s.bus := rfl
@[simp] theorem clearDataFlags_ctl : (s.clearDataFlags).ctl = s.ctl := rfl
@[simp] theorem clearDataFlags_status : (s.clearDataFlags).status = s.status := rfl
@[simp] theorem clearDataFlags_mirror : (s.clearDataFlags).mirror = s.mirror := rfl
@[simp] theorem clearDataFlags_slave : (s.clearDataFlags).slave = s.slave := rfl
@[simp] theorem clearDataFlags_uartOut : (s.clearDataFlags).uartOut = s.uartOut := rfl
@[simp] theorem clearDataFlags_draws : (s.clearDataFlags).draws = s.draws := rfl
@[simp] theorem clearDataFlags_cfg : (s.clearDataFlags).cfg = s.cfg := rfl
@[simp] theorem clearDataFlags_reg (q : Reg) : (s.clearDataFlags).reg q = s.reg q := by simp [State.reg]

@[simp] theorem setPageFault_x (ty : Access) : (s.setPageFault ty).x = s.x := by cases ty <;> rfl
@[simp] theorem setPageFault_pc (ty : Access) : (s.setPageFault ty).pc = s.pc := by cases ty <;> rfl
@[simp] theorem setPageFault_priv (ty : Access) : (s.setPageFault ty).priv = s.priv := by cases ty <;> rfl
@[simp] theorem setPageFault_csr (ty : Access) : (s.setPageFault ty).csr = s.csr := by cases ty <;> rfl
@[simp] theorem setPageFault_latch (ty : Access) : (s.setPageFault ty).latch = s.latch := by cases ty <;> rfl
@[simp] theorem setPageFault_res (ty : Access) : (s.setPageFault ty).res = s.res := by cases ty <;> rfl
@[simp] theorem setPageFault_ptw (ty : Access) : (s.setPageFault ty).ptw = s.ptw := by cases ty <;> rfl
@[simp] theorem setPageFault_stage (ty : Access) : (s.setPageFault ty).stage = s.stage := by cases ty <;> rfl
@[simp] theorem setPageFault_instWord (ty : Access) : (s.setPageFault ty).instWord = s.instWord := by cases ty <;> rfl
@[simp] theorem setPageFault_fetchPaddr (ty : Access) : (s.setPageFault ty).fetchPaddr = s.fetchPaddr := by cases ty <;> rfl
@[simp] theorem setPageFault_memop (ty : Access) : (s.setPageFault ty).memop = s.memop := by cases ty <;> rfl
@[simp] theorem setPageFault_bus (ty : Access) : (s.setPageFault ty).bus = s.bus := by cases ty <;> rfl
@[simp] theorem setPageFault_ctl (ty : Access) : (s.setPageFault ty).ctl = s.ctl := by cases ty <;> rfl
@[simp] theorem setPageFault_status (ty : Access) : (s.setPageFault ty).status = s.status := by cases ty <;> rfl
@[simp] theorem setPageFault_mirror (ty : Access) : (s.setPageFault ty).mirror = s.mirror := by cases ty <;> rfl
@[simp] theorem setPageFault_slave (ty : Access) : (s.setPageFault ty).slave = s.slave := by cases ty <;> rfl
@[simp] theorem setPageFault_uartOut (ty : Access) : (s.setPageFault ty).uartOut = s.uartOut := by cases ty <;> rfl
@[simp] theorem setPageFault_draws (ty : Access) : (s.setPageFault ty).draws = s.draws := by cases ty <;> rfl
@[simp] theorem setPageFault_cfg (ty : Access) : (s.setPageFault ty).cfg = s.cfg := by cases ty <;> rfl
@[simp] theorem setPageFault_reg (ty : Access) (q : Reg) : (s.setPageFault ty).reg q = s.reg q := by simp [State.reg]

@[simp] theorem setAccessFault_x (ty : Access) : (s.setAccessFault ty).x = s.x := by cases ty <;> rfl
@[simp] theorem setAccessFault_pc (ty : Access) : (s.setAccessFault ty).pc = s.pc := by cases ty <;> rfl
@[simp] theorem setAccessFault_priv (ty : Access) : (s.setAccessFault ty).priv = s.priv := by cases ty <;> rfl
@[simp] theorem setAccessFault_csr (ty : Access) : (s.setAccessFault ty).csr = s.csr := by cases ty <;> rfl
@[simp] theorem setAccessFault_latch (ty : Access) : (s.setAccessFault ty).latch = s.latch := by cases ty <;> rfl
@[simp] theorem setAccessFault_res (ty : Access) : (s.setAccessFault ty).res = s.res := by cases ty <;> rfl
@[simp] theorem setAccessFault_ptw (ty : Access) : (s.setAccessFault ty).ptw = s.ptw := by cases ty <;> rfl
@[simp] theorem setAccessFault_stage (ty : Access) : (s.setAccessFault ty).stage = s.stage := by cases ty <;> rfl
@[simp] theorem setAccessFault_instWord (ty : Access) : (s.setAccessFault ty).instWord = s.instWord := by cases ty <;> rfl
@[simp] theorem setAccessFault_fetchPaddr (ty : Access) : (s.setAccessFault ty).fetchPaddr = s.fetchPaddr := by cases ty <;> rfl
@[simp] theorem setAccessFault_memop (ty : Access) : (s.setAccessFault ty).memop = s.memop := by cases ty <;> rfl
@[simp] theorem setAccessFault_bus (ty : Access) : (s.setAccessFault ty).bus = s.bus := by cases ty <;> rfl
@[simp] theorem setAccessFault_ctl (ty : Access) : (s.setAccessFault ty).ctl = s.ctl := by cases ty <;> rfl
@[simp] theorem setAccessFault_status (ty : Access) : (s.setAccessFault ty).status = s.status := by cases ty <;> rfl
@[simp] theorem setAccessFault_mirror (ty : Access) : (s.setAccessFault ty).mirror = s.mirror := by cases ty <;> rfl
@[simp] theorem setAccessFault_slave (ty : Access) : (s.setAccessFault ty).slave = s.slave := by cases ty <;> rfl
@[simp] theorem setAccessFault_uartOut (ty : Access) : (s.setAccessFault ty).uartOut = s.uartOut := by cases ty <;> rfl
@[simp] theorem setAccessFault_draws (ty : Access) : (s.setAccessFault ty).draws = s.draws := by cases ty <;> rfl
@[simp] theorem setAccessFault_cfg (ty : Access) : (s.setAccessFault ty).cfg = s.cfg := by cases ty <;> rfl
@[simp] theorem setAccessFault_reg (ty : Access) (q : Reg) : (s.setAccessFault ty).reg q = s.reg q := by simp [State.reg]

@[simp] theorem beginExec_x : (s.beginExec).x = s.x := rfl
@[simp] theorem beginExec_pc : (s.beginExec).pc = s.pc := rfl
@[simp] theorem beginExec_priv : (s.beginExec).priv = s.priv := rfl
@[simp] theorem beginExec_csr : (s.beginExec).csr = s.csr := rfl
@[simp] theorem beginExec_latch : (s.beginExec).latch = s.latch := rfl
@[simp] theorem beginExec_res : (s.beginExec).res = s.res := rfl
@[simp] theorem beginExec_ptw : (s.beginExec).ptw = s.ptw := rfl
@[simp] theorem beginExec_stage : (s.beginExec).stage = s.stage := rfl
@[simp] theorem beginExec_instWord : (s.beginExec).instWord = s.instWord := rfl
@[simp] theorem beginExec_fetchPaddr : (s.beginExec).fetchPaddr = s.fetchPaddr := rfl
@[simp] theorem beginExec_memop : (s.beginExec).memop = s.memop := rfl
@[simp] theorem beginExec_bus : (s.beginExec).bus = s.bus := rfl
@[simp] theorem beginExec_ctl : (s.beginExec).ctl = s.ctl := rfl
@[simp] theorem beginExec_status : (s.beginExec).status = s.status := rfl
@[simp] theorem beginExec_mirror : (s.beginExec).mirror = s.mirror := rfl
@[simp] theorem beginExec_slave : (s.beginExec).slave = s.slave := rfl
@[simp] theorem beginExec_uartOut : (s.beginExec).uartOut = s.uartOut := rfl
@[simp] theorem beginExec_draws : (s.beginExec).draws = s.draws := rfl
@[simp] theorem beginExec_cfg : (s.beginExec).cfg = s.cfg := rfl
@[simp] theorem beginExec_reg (q : Reg) : (s.beginExec).reg q = s.reg q := by simp [State.reg]

@[simp] theorem setBranchFlags_x (b : Bool) : (s.setBranchFlags b).x = s.x := rfl
@[simp] theorem setBranchFlags_pc (b : Bool) : (s.setBranchFlags b).pc = s.pc := rfl
@[simp] theorem setBranchFlags_priv (b : Bool) : (s.setBranchFlags b).priv = s.priv := rfl
@[simp] theorem setBranchFlags_csr (b : Bool) : (s.setBranchFlags b).csr = s.csr := rfl
@[simp] theorem setBranchFlags_latch (b : Bool) : (s.setBranchFlags b).latch = s.latch := rfl
@[simp] theorem setBranchFlags_res (b : Bool) : (s.setBranchFlags b).res = s.res := rfl
@[simp] theorem setBranchFlags_ptw (b : Bool) : (s.setBranchFlags b).ptw = s.ptw := rfl
@[simp] theorem setBranchFlags_stage (b : Bool) : (s.setBranchFlags b).stage = s.stage := rfl
@[simp] theorem setBranchFlags_instWord (b : Bool) : (s.setBranchFlags b).instWord = s.instWord := rfl
@[simp] theorem setBranchFlags_fetchPaddr (b : Bool) : (s.setBranchFlags b).fetchPaddr = s.fetchPaddr := rfl
@[simp] theorem setBranchFlags_memop (b : Bool) : (s.setBranchFlags b).memop = s.memop := rfl
@[simp] theorem setBranchFlags_bus (b : Bool) : (s.setBranchFlags b).bus = s.bus := rfl
@[simp] theorem setBranchFlags_ctl (b : Bool) : (s.setBranchFlags b).ctl = s.ctl := rfl
@[simp] theorem setBranchFlags_status (b : Bool) : (s.setBranchFlags b).status = s.status := rfl
@[simp] theorem setBranchFlags_mirror (b : Bool) : (s.setBranchFlags b).mirror = s.mirror := rfl
@[simp] theorem setBranchFlags_slave (b : Bool) : (s.setBranchFlags b).slave = s.slave := rfl
@[simp] theorem setBranchFlags_uartOut (b : Bool) : (s.setBranchFlags b).uartOut = s.uartOut := rfl
@[simp] theorem setBranchFlags_draws (b : Bool) : (s.setBranchFlags b).draws = s.draws := rfl
@[simp] theorem setBranchFlags_cfg (b : Bool) : (s.setBranchFlags b).cfg = s.cfg := rfl
@[simp] theorem setBranchFlags_reg (b : Bool) (q : Reg) : (s.setBranchFlags b).reg q = s.reg q := by simp [State.reg]

@[simp] theorem emitUart_x (a d : Word) (m : BitVec 4) : (s.emitUart a d m).x = s.x := rfl
@[simp] theorem emitUart_pc (a d : Word) (m : BitVec 4) : (s.emitUart a d m).pc = s.pc := rfl
@[simp] theorem emitUart_priv (a d : Word) (m : BitVec 4) : (s.emitUart a d m).priv = s.priv := rfl
@[simp] theorem emitUart_csr (a d : Word) (m : BitVec 4) : (s.emitUart a d m).csr = s.csr := rfl
@[simp] theorem emitUart_flags (a d : Word) (m : BitVec 4) : (s.emitUart a d m).flags = s.flags := rfl
@[simp] theorem emitUart_latch (a d : Word) (m : BitVec 4) : (s.emitUart a d m).latch = s.latch := rfl
@[simp] theorem emitUart_res (a d : Word) (m : BitVec 4) : (s.emitUart a d m).res = s.res := rfl
@[simp] theorem emitUart_ptw (a d : Word) (m : BitVec 4) : (s.emitUart a d m).ptw = s.ptw := rfl
@[simp] theorem emitUart_stage (a d : Word) (m : BitVec 4) : (s.emitUart a d m).stage = s.stage := rfl
@[simp] theorem emitUart_instWord (a d : Word) (m : BitVec 4) : (s.emitUart a d m).instWord = s.instWord := rfl
@[simp] theorem emitUart_fetchPaddr (a d : Word) (m : BitVec 4) : (s.emitUart a d m).fetchPaddr = s.fetchPaddr := rfl
@[simp] theorem emitUart_memop (a d : Word) (m : BitVec 4) : (s.emitUart a d m).memop = s.memop := rfl
@[simp] theorem emitUart_bus (a d : Word) (m : BitVec 4) : (s.emitUart a d m).bus = s.bus := rfl
@[simp] theorem emitUart_ctl (a d : Word) (m : BitVec 4) : (s.emitUart a d m).ctl = s.ctl := rfl
@[simp] theorem emitUart_status (a d : Word) (m : BitVec 4) : (s.emitUart a d m).status = s.status := rfl
@[simp] theorem emitUart_mirror (a d : Word) (m : BitVec 4) : (s.emitUart a d m).mirror = s.mirror := rfl
@[simp] theorem emitUart_slave (a d : Word) (m : BitVec 4) : (s.emitUart a d m).slave = s.slave := rfl
@[simp] theorem emitUart_draws (a d : Word) (m : BitVec 4) : (s.emitUart a d m).draws = s.draws := rfl
@[simp] theorem emitUart_cfg (a d : Word) (m : BitVec 4) : (s.emitUart a d m).cfg = s.cfg := rfl
@[simp] theorem emitUart_reg (a d : Word) (m : BitVec 4) (q : Reg) : (s.emitUart a d m).reg q = s.reg q := by simp [State.reg]

@[simp] theorem fillLatch_x (a d : Word) (m : BitVec 4) : (s.fillLatch a d m).x = s.x := rfl
@[simp] theorem fillLatch_pc (a d : Word) (m : BitVec 4) : (s.fillLatch a d m).pc = s.pc := rfl
@[simp] theorem fillLatch_priv (a d : Word) (m : BitVec 4) : (s.fillLatch a d m).priv = s.priv := rfl
@[simp] theorem fillLatch_csr (a d : Word) (m : BitVec 4) : (s.fillLatch a d m).csr = s.csr := rfl
@[simp] theorem fillLatch_flags (a d : Word) (m : BitVec 4) : (s.fillLatch a d m).flags = s.flags := rfl
@[simp] theorem fillLatch_res (a d : Word) (m : BitVec 4) : (s.fillLatch a d m).res = s.res := rfl
@[simp] theorem fillLatch_ptw (a d : Word) (m : BitVec 4) : (s.fillLatch a d m).ptw = s.ptw := rfl
@[simp] theorem fillLatch_stage (a d : Word) (m : BitVec 4) : (s.fillLatch a d m).stage = s.stage := rfl
@[simp] theorem fillLatch_instWord (a d : Word) (m : BitVec 4) : (s.fillLatch a d m).instWord = s.instWord := rfl
@[simp] theorem fillLatch_fetchPaddr (a d : Word) (m : BitVec 4) : (s.fillLatch a d m).fetchPaddr = s.fetchPaddr := rfl
@[simp] theorem fillLatch_memop (a d : Word) (m : BitVec 4) : (s.fillLatch a d m).memop = s.memop := rfl
@[simp] theorem fillLatch_bus (a d : Word) (m : BitVec 4) : (s.fillLatch a d m).bus = s.bus := rfl
@[simp] theorem fillLatch_ctl (a d : Word) (m : BitVec 4) : (s.fillLatch a d m).ctl = s.ctl := rfl
@[simp] theorem fillLatch_status (a d : Word) (m : BitVec 4) : (s.fillLatch a d m).status = s.status := rfl
@[simp] theorem fillLatch_mirror (a d : Word) (m : BitVec 4) : (s.fillLatch a d m).mirror = s.mirror := rfl
@[simp] theorem fillLatch_slave (a d : Word) (m : BitVec 4) : (s.fillLatch a d m).slave = s.slave := rfl
@[simp] theorem fillLatch_uartOut (a d : Word) (m : BitVec 4) : (s.fillLatch a d m).uartOut = s.uartOut := rfl
@[simp] theorem fillLatch_draws (a d : Word) (m : BitVec 4) : (s.fillLatch a d m).draws = s.draws := rfl
@[simp] theorem fillLatch_cfg (a d : Word) (m : BitVec 4) : (s.fillLatch a d m).cfg = s.cfg := rfl
@[simp] theorem fillLatch_reg (a d : Word) (m : BitVec 4) (q : Reg) : (s.fillLatch a d m).reg q = s.reg q := by simp [State.reg]

@[simp] theorem dataStart_x : (dataStart s).x = s.x := rfl
@[simp] theorem dataStart_pc : (dataStart s).pc = s.pc := rfl
@[simp] theorem dataStart_priv : (dataStart s).priv = s.priv := rfl
@[simp] theorem dataStart_csr : (dataStart s).csr = s.csr := rfl
@[simp] theorem dataStart_res : (dataStart s).res = s.res := rfl
@[simp] theorem dataStart_ptw : (dataStart s).ptw = s.ptw := rfl
@[simp] theorem dataStart_stage : (dataStart s).stage = s.stage := rfl
@[simp] theorem dataStart_instWord : (dataStart s).instWord = s.instWord := rfl
@[simp] theorem dataStart_fetchPaddr : (dataStart s).fetchPaddr = s.fetchPaddr := rfl
@[simp] theorem dataStart_memop : (dataStart s).memop = s.memop := rfl
@[simp] theorem dataStart_bus : (dataStart s).bus = s.bus := rfl
@[simp] theorem dataStart_ctl : (dataStart s).ctl = s.ctl := rfl
@[simp] theorem dataStart_status : (dataStart s).status = s.status := rfl
@[simp] theorem dataStart_mirror : (dataStart s).mirror = s.mirror := rfl
@[simp] theorem dataStart_slave : (dataStart s).slave = s.slave := rfl
@[simp] theorem dataStart_uartOut : (dataStart s).uartOut = s.uartOut := rfl
@[simp] theorem dataStart_draws : (dataStart s).draws = s.draws := rfl
@[simp] theorem dataStart_cfg : (dataStart s).cfg = s.cfg := rfl
@[simp] theorem dataStart_reg (q : Reg) : (dataStart s).reg q = s.reg q := by simp [State.reg]

@[simp] theorem trapEntry_x (t : Trap) (v : Word) : (trapEntry t v s).x = s.x := by unfold trapEntry; dsimp only; split <;> rfl
@[simp] theorem trapEntry_latch (t : Trap) (v : Word) : (trapEntry t v s).latch = s.latch := by unfold trapEntry; dsimp only; split <;> rfl
@[simp] theorem trapEntry_res (t : Trap) (v : Word) : (trapEntry t v s).res = s.res := by unfold trapEntry; dsimp only; split <;> rfl
@[simp] theorem trapEntry_ptw (t : Trap) (v : Word) : (trapEntry t v s).ptw = s.ptw := by unfold trapEntry; dsimp only; split <;> rfl
@[simp] theorem trapEntry_stage (t : Trap) (v : Word) : (trapEntry t v s).stage = s.stage := by unfold trapEntry; dsimp only; split <;> rfl
@[simp] theorem trapEntry_instWord (t : Trap) (v : Word) : (trapEntry t v s).instWord = s.instWord := by unfold trapEntry; dsimp only; split <;> rfl
@[simp] theorem trapEntry_fetchPaddr (t : Trap) (v : Word) : (trapEntry t v s).fetchPaddr = s.fetchPaddr := by unfold trapEntry; dsimp only; split <;> rfl
@[simp] theorem trapEntry_memop (t : Trap) (v : Word) : (trapEntry t v s).memop = s.memop := by unfold trapEntry; dsimp only; split <;> rfl
@[simp] theorem trapEntry_bus (t : Trap) (v : Word) : (trapEntry t v s).bus = s.bus := by unfold trapEntry; dsimp only; split <;> rfl
@[simp] theorem trapEntry_ctl (t : Trap) (v : Word) : (trapEntry t v s).ctl = s.ctl := by unfold trapEntry; dsimp only; split <;> rfl
@[simp] theorem trapEntry_status (t : Trap) (v : Word) : (trapEntry t v s).status = s.status := by unfold trapEntry; dsimp only; split <;> rfl
@[simp] theorem trapEntry_mirror (t : Trap) (v : Word) : (trapEntry t v s).mirror = s.mirror := by unfold trapEntry; dsimp only; split <;> rfl
@[simp] theorem trapEntry_slave (t : Trap) (v : Word) : (trapEntry t v s).slave = s.slave := by unfold trapEntry; dsimp only; split <;> rfl
@[simp] theorem trapEntry_uartOut (t : Trap) (v : Word) : (trapEntry t v s).uartOut = s.uartOut := by unfold trapEntry; dsimp only; split <;> rfl
@[simp] theorem trapEntry_draws (t : Trap) (v : Word) : (trapEntry t v s).draws = s.draws := by unfold trapEntry; dsimp only; split <;> rfl
@[simp] theorem trapEntry_cfg (t : Trap) (v : Word) : (trapEntry t v s).cfg = s.cfg := by unfold trapEntry; dsimp only; split <;> rfl
@[simp] theorem trapEntry_reg (t : Trap) (v : Word) (q : Reg) : (trapEntry t v s).reg q = s.reg q := by simp [State.reg]

end Frames

section Values
variable (s : State)

@[simp] theorem reg_zero : s.reg 0#5 = 0#32 := rfl

/-- Reading after writing a register: x0 keeps reading 0 (R11, R20). -/
theorem reg_setReg (r q : Reg) (v : Word) :
    (s.setReg r v).reg q = if q = r ∧ q ≠ 0#5 then v else s.reg q := by
  unfold State.setReg State.reg
  by_cases hr : r = 0#5
  · subst hr
    by_cases hq : q = 0#5 <;> simp [hq]
  · by_cases hq : q = 0#5
    · simp [hq]
    · by_cases h : q = r
      · subst h; simp [hr]
      · have hn : r.toNat ≠ q.toNat := fun e => h (BitVec.eq_of_toNat_eq e.symm)
        simp [hr, hq, h, hn]

@[simp] theorem advancePc_pc : s.advancePc.pc = s.pc + 4#32 := rfl

@[simp] theorem advancePc_sameRegs (q : Reg) : s.advancePc.reg q = s.reg q := by simp [State.reg]

theorem reg_writeRd (r q : Reg) (v : Word) :
    (s.writeRd r v).reg q = if q = r ∧ q ≠ 0#5 then v else s.reg q := by
  simp [State.writeRd, reg_setReg]

@[simp] theorem writeRd_pc (r : Reg) (v : Word) : (s.writeRd r v).pc = s.pc + 4#32 := by simp [State.writeRd]

@[simp] theorem tickBy_simTime (n : Nat) : (s.tickBy n).ctl.simTime = s.ctl.simTime + BitVec.ofNat 64 n := rfl

@[simp] theorem tickBy_instCount (n : Nat) : (s.tickBy n).ctl.instCount = s.ctl.instCount := rfl

@[simp] theorem fillLatch_latch (a d : Word) (m : BitVec 4) :
    (s.fillLatch a d m).latch = { store := true, addr := a, data := d, strb := m } := rfl

@[simp] theorem dataStart_latch_store : (dataStart s).latch.store = false := rfl

@[simp] theorem dataStart_flags_data :
    (dataStart s).flags.accessFaultLoad = false ∧ (dataStart s).flags.pageFaultLoad = false ∧
      (dataStart s).flags.accessFaultStore = false ∧ (dataStart s).flags.pageFaultStore = false := ⟨rfl, rfl, rfl, rfl⟩

/-- Everything but registers and pc is the same after a register write and `pc + 4` (R221). -/
theorem writeRd_sameButRegsPc (r : Reg) (v : Word) : { s.writeRd r v with x := s.x, pc := s.pc } = s := by
  unfold State.writeRd State.setReg State.advancePc
  split <;> rfl

/-- Everything but registers is the same after a register write. -/
theorem setReg_sameButRegs (r : Reg) (v : Word) : { s.setReg r v with x := s.x } = s := by
  unfold State.setReg
  split <;> rfl

end Values

end Sys2Proof.Machine
end

