-- ==== Sys2Proof/Laws/Translate.lean ====
section
/-! SUPPORT. Translation and the bus at the instruction level: what each operation can do, and what it leaves alone. -/

namespace Sys2Proof.Machine

variable (s : State)

/-! ## Bus transactions -/

@[simp] theorem busRead_x (pa : Word) : (busRead pa s).2.x = s.x := rfl
@[simp] theorem busRead_pc (pa : Word) : (busRead pa s).2.pc = s.pc := rfl
@[simp] theorem busRead_priv (pa : Word) : (busRead pa s).2.priv = s.priv := rfl
@[simp] theorem busRead_csr (pa : Word) : (busRead pa s).2.csr = s.csr := rfl
@[simp] theorem busRead_flags (pa : Word) : (busRead pa s).2.flags = s.flags := rfl
@[simp] theorem busRead_latch (pa : Word) : (busRead pa s).2.latch = s.latch := rfl
@[simp] theorem busRead_res (pa : Word) : (busRead pa s).2.res = s.res := rfl
@[simp] theorem busRead_ptw (pa : Word) : (busRead pa s).2.ptw = s.ptw := rfl
@[simp] theorem busRead_stage (pa : Word) : (busRead pa s).2.stage = s.stage := rfl
@[simp] theorem busRead_instWord (pa : Word) : (busRead pa s).2.instWord = s.instWord := rfl
@[simp] theorem busRead_fetchPaddr (pa : Word) : (busRead pa s).2.fetchPaddr = s.fetchPaddr := rfl
@[simp] theorem busRead_memop (pa : Word) : (busRead pa s).2.memop = s.memop := rfl
@[simp] theorem busRead_bus (pa : Word) : (busRead pa s).2.bus = s.bus := rfl
@[simp] theorem busRead_ctl (pa : Word) : (busRead pa s).2.ctl = s.ctl := rfl
@[simp] theorem busRead_status (pa : Word) : (busRead pa s).2.status = s.status := rfl
@[simp] theorem busRead_slave (pa : Word) : (busRead pa s).2.slave = s.slave := rfl
@[simp] theorem busRead_uartOut (pa : Word) : (busRead pa s).2.uartOut = s.uartOut := rfl
@[simp] theorem busRead_draws (pa : Word) : (busRead pa s).2.draws = s.draws := rfl
@[simp] theorem busRead_cfg (pa : Word) : (busRead pa s).2.cfg = s.cfg := rfl
@[simp] theorem busRead_reg (pa : Word) (q : Reg) : (busRead pa s).2.reg q = s.reg q := by simp [State.reg]

/-- A read changes the mirror word only, and answers whether the slave reports an error (R461). -/
theorem busRead_eq (pa : Word) : busRead pa s =
    (s.slave.readErr.contains (wordAddress pa), { s with mirror := s.mirror.writeWord pa (s.slave.mem.readWord pa) }) :=
  rfl

@[simp] theorem busWrite_x (pa d : Word) (m : BitVec 4) : (busWrite pa d m s).2.x = s.x := by unfold busWrite; dsimp only; split <;> rfl
@[simp] theorem busWrite_pc (pa d : Word) (m : BitVec 4) : (busWrite pa d m s).2.pc = s.pc := by unfold busWrite; dsimp only; split <;> rfl
@[simp] theorem busWrite_priv (pa d : Word) (m : BitVec 4) : (busWrite pa d m s).2.priv = s.priv := by unfold busWrite; dsimp only; split <;> rfl
@[simp] theorem busWrite_csr (pa d : Word) (m : BitVec 4) : (busWrite pa d m s).2.csr = s.csr := by unfold busWrite; dsimp only; split <;> rfl
@[simp] theorem busWrite_flags (pa d : Word) (m : BitVec 4) : (busWrite pa d m s).2.flags = s.flags := by unfold busWrite; dsimp only; split <;> rfl
@[simp] theorem busWrite_latch (pa d : Word) (m : BitVec 4) : (busWrite pa d m s).2.latch = s.latch := by unfold busWrite; dsimp only; split <;> rfl
@[simp] theorem busWrite_res (pa d : Word) (m : BitVec 4) : (busWrite pa d m s).2.res = s.res := by unfold busWrite; dsimp only; split <;> rfl
@[simp] theorem busWrite_ptw (pa d : Word) (m : BitVec 4) : (busWrite pa d m s).2.ptw = s.ptw := by unfold busWrite; dsimp only; split <;> rfl
@[simp] theorem busWrite_stage (pa d : Word) (m : BitVec 4) : (busWrite pa d m s).2.stage = s.stage := by unfold busWrite; dsimp only; split <;> rfl
@[simp] theorem busWrite_instWord (pa d : Word) (m : BitVec 4) : (busWrite pa d m s).2.instWord = s.instWord := by unfold busWrite; dsimp only; split <;> rfl
@[simp] theorem busWrite_fetchPaddr (pa d : Word) (m : BitVec 4) : (busWrite pa d m s).2.fetchPaddr = s.fetchPaddr := by unfold busWrite; dsimp only; split <;> rfl
@[simp] theorem busWrite_memop (pa d : Word) (m : BitVec 4) : (busWrite pa d m s).2.memop = s.memop := by unfold busWrite; dsimp only; split <;> rfl
@[simp] theorem busWrite_bus (pa d : Word) (m : BitVec 4) : (busWrite pa d m s).2.bus = s.bus := by unfold busWrite; dsimp only; split <;> rfl
@[simp] theorem busWrite_ctl (pa d : Word) (m : BitVec 4) : (busWrite pa d m s).2.ctl = s.ctl := by unfold busWrite; dsimp only; split <;> rfl
@[simp] theorem busWrite_status (pa d : Word) (m : BitVec 4) : (busWrite pa d m s).2.status = s.status := by unfold busWrite; dsimp only; split <;> rfl
@[simp] theorem busWrite_draws (pa d : Word) (m : BitVec 4) : (busWrite pa d m s).2.draws = s.draws := by unfold busWrite; dsimp only; split <;> rfl
@[simp] theorem busWrite_cfg (pa d : Word) (m : BitVec 4) : (busWrite pa d m s).2.cfg = s.cfg := by unfold busWrite; dsimp only; split <;> rfl
@[simp] theorem busWrite_reg (pa d : Word) (m : BitVec 4) (q : Reg) : (busWrite pa d m s).2.reg q = s.reg q := by simp [State.reg]

/-- The mirror takes the strobed bytes whatever the response (R464, D63). -/
@[simp] theorem busWrite_mirror (pa d : Word) (m : BitVec 4) :
    (busWrite pa d m s).2.mirror = s.mirror.writeLanes pa d m := by
  unfold busWrite; dsimp only; split <;> rfl

/-- The UART event is raised whatever the response (R465). -/
@[simp] theorem busWrite_uartOut (pa d : Word) (m : BitVec 4) :
    (busWrite pa d m s).2.uartOut = s.uartOut ++ (uartByte s.cfg pa d m).toList := by
  unfold busWrite; dsimp only; split <;> rfl

/-- The slave takes the bytes unless it answers an error (log 5). -/
theorem busWrite_slave (pa d : Word) (m : BitVec 4) :
    (busWrite pa d m s).2.slave =
      if s.slave.writeErr.contains (wordAddress pa) then s.slave
      else { s.slave with mem := s.slave.mem.writeLanes pa d m } := by
  unfold busWrite; dsimp only; split <;> rfl

theorem busWrite_err (pa d : Word) (m : BitVec 4) :
    (busWrite pa d m s).1 = s.slave.writeErr.contains (wordAddress pa) := rfl

/-! ## The PTW cache (R60) -/

/-- An entry filled is found again. -/
theorem ptwLookup_ptwFill (pa d : Word) : (s.ptwFill pa d).ptwLookup pa = some d := by
  simp [State.ptwLookup, State.ptwFill]

/-- Filling an entry does not touch the entries with another index. -/
theorem ptwLookup_ptwFill_other {pa pb : Word} (d : Word) (h : ptwIndex pa ≠ ptwIndex pb) :
    (s.ptwFill pa d).ptwLookup pb = s.ptwLookup pb := by
  simp [State.ptwLookup, State.ptwFill, h]

/-- Nothing is found after a flush (R130). -/
theorem ptwLookup_ptwFlush (pa : Word) : s.ptwFlush.ptwLookup pa = none := by
  simp [State.ptwLookup, State.ptwFlush, Vector.getElem_mk]

/-! ## Reading a PTE and translating -/

theorem sameButWalk_refl : s.sameButWalk s := rfl

theorem sameButWalk_trans {s t u : State} (h1 : s.sameButWalk t) (h2 : t.sameButWalk u) : s.sameButWalk u := by
  unfold State.sameButWalk at *
  rw [← h1, ← h2]

/-- The state after a PTE read differs by a filled cache entry, the mirror and the time only. -/
theorem pteReadDirect_frame (pa : Word) : s.sameButWalk (pteReadDirect s pa).2 := by
  unfold pteReadDirect
  split
  · rfl
  · split
    · rfl
    · rw [busRead_eq]
      split
      · simp_all only [Prod.mk.injEq]
        obtain ⟨-, rfl⟩ := ‹_ ∧ _›
        rfl
      · simp_all only [Prod.mk.injEq]
        obtain ⟨-, rfl⟩ := ‹_ ∧ _›
        rfl

/-- A PTE read at the instruction level is never pending. -/
theorem pteReadDirect_ne_pending (pa : Word) : (pteReadDirect s pa).1 ≠ .pending := by
  unfold pteReadDirect
  split
  · simp
  · split
    · simp
    · split <;> simp

/-- A cached PTE is used as it stands, whatever memory holds now (R118, R570). -/
theorem pteReadDirect_hit {pa d : Word} (hb : s.inBounds pa = true) (h : s.ptwLookup pa = some d) :
    pteReadDirect s pa = (.ok d, s) := by
  simp [pteReadDirect, hb, h]

/-- A PTE read that gives a word, from the cache or from memory (R118): what it leaves of what the walk goes on to read. -/
theorem pteReadDirect_reads {pa pte : Word} (h : s.pteReads pa pte) :
    ∃ t, pteReadDirect s pa = (.ok pte, t) ∧ t.csr = s.csr ∧ t.slave = s.slave ∧ t.cfg = s.cfg ∧
      t.ptw = (s.afterPteRead pa pte).ptw := by
  obtain ⟨hb, hl | ⟨hl, hr, hw⟩⟩ := h
  · exact ⟨s, pteReadDirect_hit s hb hl, rfl, rfl, rfl, by simp [State.afterPteRead, hl]⟩
  · have hbus : busRead pa s = (false, (busRead pa s).2) := by
      rw [← (show s.slave.readErr.contains (wordAddress pa) = false from hr)]; rfl
    refine ⟨((busRead pa s).2.tickBy 2).ptwFill pa (s.slave.mem.readWord pa), ?_, rfl, rfl, rfl, ?_⟩
    · unfold pteReadDirect
      rw [hb, hl, hbus]
      simp only [Bool.not_true, Bool.false_eq_true, if_false, hw]
    · rw [State.afterPteRead, if_pos hl, hw]; rfl

/-- A PTE read that fails (R83, R506) leaves the cache as it was. -/
theorem pteReadDirect_fails {pa : Word} (h : s.pteFails pa) :
    ∃ t, pteReadDirect s pa = (.fault, t) ∧ t.ptw = s.ptw := by
  unfold pteReadDirect
  rcases h with hb | ⟨hl, hr⟩
  · exact ⟨s, by simp [hb], rfl⟩
  · cases hb : s.inBounds pa
    · exact ⟨s, by simp, rfl⟩
    · have hbus : busRead pa s = (true, (busRead pa s).2) := by
        have : s.slave.readErr.contains (wordAddress pa) = true := by simpa [State.readsOk] using hr
        rw [← this]; rfl
      rw [hl, hbus]
      exact ⟨_, rfl, rfl⟩

/-- A walk over any reader whose states are related to the one before by a transitive relation. -/
theorem walk_frame (rd : State → Word → PteRead × State) (R : State → State → Prop) (ht : ∀ a b c, R a b → R b c → R a c)
    (h : ∀ u pa, R u (rd u pa).2) (va : Word) (ty : Access) (eff : Priv) : R s (walk rd s va ty eff).2 := by
  have h0 : ∀ u base, R u (walkLevel0 rd u base va ty eff).2 := by
    intro u base
    unfold walkLevel0
    have hu := h u (pteAddress base (va.extractLsb' 12 10))
    split
    · simp_all
    · simp_all
    · rename_i pte s1 heq
      rw [heq] at hu
      split <;> exact hu
  unfold walk
  have hs := h s (pteAddress (pageAddress (satpPpn s.csr.satp)) (va.extractLsb' 22 10))
  split
  · simp_all
  · simp_all
  · rename_i pte s1 heq
    rw [heq] at hs
    split
    · exact hs
    · exact hs
    · exact ht _ _ _ hs (h0 _ _)

/-- Translating changes the PTW cache, the mirror and the time only (R110: no architectural state). -/
theorem translate_frame (va : Word) (ty : Access) : s.sameButWalk (translate s va ty).2 := by
  unfold translate translateWith
  split
  · exact walk_frame s pteReadDirect State.sameButWalk (fun _ _ _ => sameButWalk_trans)
      (fun u pa => pteReadDirect_frame u pa) va ty _
  · exact sameButWalk_refl s

/-- With translation off the address is the physical one and nothing changes (R110). -/
theorem translate_bare {va : Word} {ty : Access} (h : translationOn s ty = false) : translate s va ty = (.ok va, s) := by
  simp [translate, translateWith, h]

@[simp] theorem translate_x (va : Word) (ty : Access) : (translate s va ty).2.x = s.x :=
  (congrArg State.x (translate_frame s va ty) :)
@[simp] theorem translate_pc (va : Word) (ty : Access) : (translate s va ty).2.pc = s.pc :=
  (congrArg State.pc (translate_frame s va ty) :)
@[simp] theorem translate_priv (va : Word) (ty : Access) : (translate s va ty).2.priv = s.priv :=
  (congrArg State.priv (translate_frame s va ty) :)
@[simp] theorem translate_csr (va : Word) (ty : Access) : (translate s va ty).2.csr = s.csr :=
  (congrArg State.csr (translate_frame s va ty) :)
@[simp] theorem translate_flags (va : Word) (ty : Access) : (translate s va ty).2.flags = s.flags :=
  (congrArg State.flags (translate_frame s va ty) :)
@[simp] theorem translate_latch (va : Word) (ty : Access) : (translate s va ty).2.latch = s.latch :=
  (congrArg State.latch (translate_frame s va ty) :)
@[simp] theorem translate_res (va : Word) (ty : Access) : (translate s va ty).2.res = s.res :=
  (congrArg State.res (translate_frame s va ty) :)
@[simp] theorem translate_stage (va : Word) (ty : Access) : (translate s va ty).2.stage = s.stage :=
  (congrArg State.stage (translate_frame s va ty) :)
@[simp] theorem translate_instWord (va : Word) (ty : Access) : (translate s va ty).2.instWord = s.instWord :=
  (congrArg State.instWord (translate_frame s va ty) :)
@[simp] theorem translate_fetchPaddr (va : Word) (ty : Access) : (translate s va ty).2.fetchPaddr = s.fetchPaddr :=
  (congrArg State.fetchPaddr (translate_frame s va ty) :)
@[simp] theorem translate_memop (va : Word) (ty : Access) : (translate s va ty).2.memop = s.memop :=
  (congrArg State.memop (translate_frame s va ty) :)
@[simp] theorem translate_bus (va : Word) (ty : Access) : (translate s va ty).2.bus = s.bus :=
  (congrArg State.bus (translate_frame s va ty) :)
@[simp] theorem translate_status (va : Word) (ty : Access) : (translate s va ty).2.status = s.status :=
  (congrArg State.status (translate_frame s va ty) :)
@[simp] theorem translate_slave (va : Word) (ty : Access) : (translate s va ty).2.slave = s.slave :=
  (congrArg State.slave (translate_frame s va ty) :)
@[simp] theorem translate_uartOut (va : Word) (ty : Access) : (translate s va ty).2.uartOut = s.uartOut :=
  (congrArg State.uartOut (translate_frame s va ty) :)
@[simp] theorem translate_draws (va : Word) (ty : Access) : (translate s va ty).2.draws = s.draws :=
  (congrArg State.draws (translate_frame s va ty) :)
@[simp] theorem translate_cfg (va : Word) (ty : Access) : (translate s va ty).2.cfg = s.cfg :=
  (congrArg State.cfg (translate_frame s va ty) :)
@[simp] theorem translate_reg (va : Word) (ty : Access) (q : Reg) : (translate s va ty).2.reg q = s.reg q := by
  simp [State.reg]

@[simp] theorem translate_inBounds (va : Word) (ty : Access) (pa : Word) :
    (translate s va ty).2.inBounds pa = s.inBounds pa := by
  simp [State.inBounds]

theorem translate_instCount (va : Word) (ty : Access) : (translate s va ty).2.ctl.instCount = s.ctl.instCount :=
  (congrArg (fun u : State => u.ctl.instCount) (translate_frame s va ty) :)

theorem leafResult_ne_pending (pte va : Word) (ty : Access) (eff : Priv) (l : Bool) :
    leafResult s pte va ty eff l ≠ .pending := by
  unfold leafResult
  split
  · simp
  · split
    · simp
    · split <;> simp

/-- At the instruction level a translation is never pending. -/
theorem translate_ne_pending (va : Word) (ty : Access) : (translate s va ty).1 ≠ .pending := by
  have h0 : ∀ (u : State) (base : Word) (eff : Priv), (walkLevel0 pteReadDirect u base va ty eff).1 ≠ .pending := by
    intro u base eff
    have hu := pteReadDirect_ne_pending u (pteAddress base (va.extractLsb' 12 10))
    unfold walkLevel0
    split
    · simp_all
    · simp
    · split
      · simp
      · exact leafResult_ne_pending _ _ _ _ _ _
      · simp
  unfold translate translateWith
  split
  · have hs := pteReadDirect_ne_pending s (pteAddress (pageAddress (satpPpn s.csr.satp)) (va.extractLsb' 22 10))
    unfold walk
    split
    · simp_all
    · simp
    · split
      · simp
      · exact leafResult_ne_pending _ _ _ _ _ _
      · exact h0 _ _ _
  · simp

end Sys2Proof.Machine
end

