-- ==== Sys2Proof/Laws/DataPath.lean ====
section
/-! SUPPORT. The data access of a memory instruction, said once: when it succeeds, what it does to the state, and what it
never touches. -/

namespace Sys2Proof.Machine

variable (s : State)

/-! ## The transfer -/

@[simp] theorem transact_x (m : MemReq) (pa : Word) : (transact m pa s).2.x = s.x := by
  unfold transact; split <;> simp
@[simp] theorem transact_pc (m : MemReq) (pa : Word) : (transact m pa s).2.pc = s.pc := by
  unfold transact; split <;> simp
@[simp] theorem transact_priv (m : MemReq) (pa : Word) : (transact m pa s).2.priv = s.priv := by
  unfold transact; split <;> simp
@[simp] theorem transact_csr (m : MemReq) (pa : Word) : (transact m pa s).2.csr = s.csr := by
  unfold transact; split <;> simp
@[simp] theorem transact_flags (m : MemReq) (pa : Word) : (transact m pa s).2.flags = s.flags := by
  unfold transact; split <;> simp
@[simp] theorem transact_latch (m : MemReq) (pa : Word) : (transact m pa s).2.latch = s.latch := by
  unfold transact; split <;> simp
@[simp] theorem transact_res (m : MemReq) (pa : Word) : (transact m pa s).2.res = s.res := by
  unfold transact; split <;> simp
@[simp] theorem transact_ptw (m : MemReq) (pa : Word) : (transact m pa s).2.ptw = s.ptw := by
  unfold transact; split <;> simp
@[simp] theorem transact_stage (m : MemReq) (pa : Word) : (transact m pa s).2.stage = s.stage := by
  unfold transact; split <;> simp
@[simp] theorem transact_instWord (m : MemReq) (pa : Word) : (transact m pa s).2.instWord = s.instWord := by
  unfold transact; split <;> simp
@[simp] theorem transact_fetchPaddr (m : MemReq) (pa : Word) : (transact m pa s).2.fetchPaddr = s.fetchPaddr := by
  unfold transact; split <;> simp
@[simp] theorem transact_memop (m : MemReq) (pa : Word) : (transact m pa s).2.memop = s.memop := by
  unfold transact; split <;> simp
@[simp] theorem transact_bus (m : MemReq) (pa : Word) : (transact m pa s).2.bus = s.bus := by
  unfold transact; split <;> simp
@[simp] theorem transact_ctl (m : MemReq) (pa : Word) : (transact m pa s).2.ctl = s.ctl := by
  unfold transact; split <;> simp
@[simp] theorem transact_status (m : MemReq) (pa : Word) : (transact m pa s).2.status = s.status := by
  unfold transact; split <;> simp
@[simp] theorem transact_draws (m : MemReq) (pa : Word) : (transact m pa s).2.draws = s.draws := by
  unfold transact; split <;> simp
@[simp] theorem transact_cfg (m : MemReq) (pa : Word) : (transact m pa s).2.cfg = s.cfg := by
  unfold transact; split <;> simp

@[simp] theorem flagError_x (e : Bool) (ty : Access) : (flagError e ty s).x = s.x := by
  unfold flagError; split <;> simp
@[simp] theorem flagError_pc (e : Bool) (ty : Access) : (flagError e ty s).pc = s.pc := by
  unfold flagError; split <;> simp
@[simp] theorem flagError_priv (e : Bool) (ty : Access) : (flagError e ty s).priv = s.priv := by
  unfold flagError; split <;> simp
@[simp] theorem flagError_csr (e : Bool) (ty : Access) : (flagError e ty s).csr = s.csr := by
  unfold flagError; split <;> simp
@[simp] theorem flagError_latch (e : Bool) (ty : Access) : (flagError e ty s).latch = s.latch := by
  unfold flagError; split <;> simp
@[simp] theorem flagError_res (e : Bool) (ty : Access) : (flagError e ty s).res = s.res := by
  unfold flagError; split <;> simp
@[simp] theorem flagError_ptw (e : Bool) (ty : Access) : (flagError e ty s).ptw = s.ptw := by
  unfold flagError; split <;> simp
@[simp] theorem flagError_stage (e : Bool) (ty : Access) : (flagError e ty s).stage = s.stage := by
  unfold flagError; split <;> simp
@[simp] theorem flagError_instWord (e : Bool) (ty : Access) : (flagError e ty s).instWord = s.instWord := by
  unfold flagError; split <;> simp
@[simp] theorem flagError_fetchPaddr (e : Bool) (ty : Access) : (flagError e ty s).fetchPaddr = s.fetchPaddr := by
  unfold flagError; split <;> simp
@[simp] theorem flagError_memop (e : Bool) (ty : Access) : (flagError e ty s).memop = s.memop := by
  unfold flagError; split <;> simp
@[simp] theorem flagError_bus (e : Bool) (ty : Access) : (flagError e ty s).bus = s.bus := by
  unfold flagError; split <;> simp
@[simp] theorem flagError_ctl (e : Bool) (ty : Access) : (flagError e ty s).ctl = s.ctl := by
  unfold flagError; split <;> simp
@[simp] theorem flagError_status (e : Bool) (ty : Access) : (flagError e ty s).status = s.status := by
  unfold flagError; split <;> simp
@[simp] theorem flagError_mirror (e : Bool) (ty : Access) : (flagError e ty s).mirror = s.mirror := by
  unfold flagError; split <;> simp
@[simp] theorem flagError_slave (e : Bool) (ty : Access) : (flagError e ty s).slave = s.slave := by
  unfold flagError; split <;> simp
@[simp] theorem flagError_uartOut (e : Bool) (ty : Access) : (flagError e ty s).uartOut = s.uartOut := by
  unfold flagError; split <;> simp
@[simp] theorem flagError_draws (e : Bool) (ty : Access) : (flagError e ty s).draws = s.draws := by
  unfold flagError; split <;> simp
@[simp] theorem flagError_cfg (e : Bool) (ty : Access) : (flagError e ty s).cfg = s.cfg := by
  unfold flagError; split <;> simp

@[simp] theorem dataTransfer_x (m : MemReq) (pa : Word) : (dataTransfer m pa s).x = s.x := by
  simp [dataTransfer, latchRequest]
@[simp] theorem dataTransfer_pc (m : MemReq) (pa : Word) : (dataTransfer m pa s).pc = s.pc := by
  simp [dataTransfer, latchRequest]
@[simp] theorem dataTransfer_priv (m : MemReq) (pa : Word) : (dataTransfer m pa s).priv = s.priv := by
  simp [dataTransfer, latchRequest]
@[simp] theorem dataTransfer_csr (m : MemReq) (pa : Word) : (dataTransfer m pa s).csr = s.csr := by
  simp [dataTransfer, latchRequest]
@[simp] theorem dataTransfer_latch (m : MemReq) (pa : Word) : (dataTransfer m pa s).latch = s.latch := by
  simp [dataTransfer, latchRequest]
@[simp] theorem dataTransfer_res (m : MemReq) (pa : Word) : (dataTransfer m pa s).res = s.res := by
  simp [dataTransfer, latchRequest]
@[simp] theorem dataTransfer_ptw (m : MemReq) (pa : Word) : (dataTransfer m pa s).ptw = s.ptw := by
  simp [dataTransfer, latchRequest]
@[simp] theorem dataTransfer_stage (m : MemReq) (pa : Word) : (dataTransfer m pa s).stage = s.stage := by
  simp [dataTransfer, latchRequest]
@[simp] theorem dataTransfer_instWord (m : MemReq) (pa : Word) : (dataTransfer m pa s).instWord = s.instWord := by
  simp [dataTransfer, latchRequest]
@[simp] theorem dataTransfer_fetchPaddr (m : MemReq) (pa : Word) : (dataTransfer m pa s).fetchPaddr = s.fetchPaddr := by
  simp [dataTransfer, latchRequest]
@[simp] theorem dataTransfer_bus (m : MemReq) (pa : Word) : (dataTransfer m pa s).bus = s.bus := by
  simp [dataTransfer, latchRequest]
@[simp] theorem dataTransfer_status (m : MemReq) (pa : Word) : (dataTransfer m pa s).status = s.status := by
  simp [dataTransfer, latchRequest]
@[simp] theorem dataTransfer_draws (m : MemReq) (pa : Word) : (dataTransfer m pa s).draws = s.draws := by
  simp [dataTransfer, latchRequest]
@[simp] theorem dataTransfer_cfg (m : MemReq) (pa : Word) : (dataTransfer m pa s).cfg = s.cfg := by
  simp [dataTransfer, latchRequest]

@[simp] theorem dataTransfer_memop (m : MemReq) (pa : Word) :
    (dataTransfer m pa s).memop = { kind := m.kind, vaddr := m.va, paddr := pa, type := m.type } := by
  simp [dataTransfer, latchRequest]

/-- A load, LR.W, SC.W or AMO transfer: the word is copied into the mirror, the slave and the UART are untouched. -/
theorem dataTransfer_read {m : MemReq} (hk : m.kind ≠ .store) (pa : Word) :
    (dataTransfer m pa s).slave = s.slave ∧ (dataTransfer m pa s).uartOut = s.uartOut ∧
      (dataTransfer m pa s).mirror = s.mirror.writeWord pa (s.slave.mem.readWord pa) := by
  have h : ∀ u, transact m pa u = busRead pa u := by
    intro u; unfold transact; cases hm : m.kind <;> simp_all
  simp [dataTransfer, latchRequest, h, busRead_eq]

/-- A store's transfer: the strobed bytes in the mirror, and in the slave unless it answers an error. -/
theorem dataTransfer_write {m : MemReq} (hk : m.kind = .store) (pa : Word) :
    (dataTransfer m pa s).mirror = s.mirror.writeLanes pa (laneData m.size m.data pa) (laneStrobe m.size pa) ∧
      (dataTransfer m pa s).uartOut =
        s.uartOut ++ (uartByte s.cfg pa (laneData m.size m.data pa) (laneStrobe m.size pa)).toList ∧
      (dataTransfer m pa s).slave =
        if s.slave.writeErr.contains (wordAddress pa) then s.slave
        else { s.slave with mem := s.slave.mem.writeLanes pa (laneData m.size m.data pa) (laneStrobe m.size pa) } := by
  simp [dataTransfer, latchRequest, transact, hk, busWrite_slave]

/-- Whether the transfer's response is an error, as the slave answers it. -/
theorem transact_err (m : MemReq) (pa : Word) : (transact m pa s).1 =
    if m.kind = .store then s.slave.writeErr.contains (wordAddress pa)
    else s.slave.readErr.contains (wordAddress pa) := by
  unfold transact
  cases m.kind <;> simp [busRead_eq, busWrite_err]

/-- The flags after a transfer: the access fault of the access's type iff the response was an error (R412, R506). -/
theorem dataTransfer_flags (m : MemReq) (pa : Word) :
    (dataTransfer m pa s).flags =
      if (transact m pa s).1 = true then (s.setAccessFault m.type).flags else s.flags := by
  have h : (transact m pa (latchRequest m pa s)).1 = (transact m pa s).1 := by
    rw [transact_err, transact_err]; rfl
  unfold dataTransfer flagError
  simp only [h]
  split
  · cases m.type <;> simp [State.setAccessFault, State.tickBy, latchRequest]
  · simp [latchRequest]

/-! ## The whole access -/

/-- The access when the address is aligned, translates and is in bounds: the transfer, from the state the walk left. -/
theorem dataPhase_ok {m : MemReq} {pa : Word} (ha : misaligned m.size m.va = false)
    (ht : (translate (dataStart s) m.va m.type).1 = .ok pa) (hb : s.inBounds pa = true) :
    dataPhase m s = dataTransfer m pa (translate (dataStart s) m.va m.type).2 := by
  have hb' : (translate (dataStart s) m.va m.type).2.inBounds pa = true := by simpa [State.inBounds] using hb
  unfold dataPhase
  rw [if_neg (by simp [ha])]
  split <;> simp_all

/-- A misaligned access: its flag and nothing else; no translation, no bus (R91). -/
theorem dataPhase_misaligned {m : MemReq} (ha : misaligned m.size m.va = true) :
    dataPhase m s = (dataStart s).setAccessFault m.type := by
  simp [dataPhase, ha]

/-- An access whose translation is a page fault: its flag, after the walk (R119). -/
theorem dataPhase_pageFault {m : MemReq} (ha : misaligned m.size m.va = false)
    (ht : (translate (dataStart s) m.va m.type).1 = .pageFault) :
    dataPhase m s = (translate (dataStart s) m.va m.type).2.setPageFault m.type := by
  unfold dataPhase
  rw [if_neg (by simp [ha])]
  split <;> simp_all

/-- An access whose walk meets a bus error or leaves the bounds: its flag, after the walk (R119). -/
theorem dataPhase_walkFault {m : MemReq} (ha : misaligned m.size m.va = false)
    (ht : (translate (dataStart s) m.va m.type).1 = .accessFault) :
    dataPhase m s = (translate (dataStart s) m.va m.type).2.setAccessFault m.type := by
  unfold dataPhase
  rw [if_neg (by simp [ha])]
  split <;> simp_all

/-- An access to a physical address out of bounds: its flag, no transfer (R83). -/
theorem dataPhase_outOfBounds {m : MemReq} {pa : Word} (ha : misaligned m.size m.va = false)
    (ht : (translate (dataStart s) m.va m.type).1 = .ok pa) (hb : s.inBounds pa = false) :
    dataPhase m s = (translate (dataStart s) m.va m.type).2.setAccessFault m.type := by
  have hb' : (translate (dataStart s) m.va m.type).2.inBounds pa = false := by simpa [State.inBounds] using hb
  unfold dataPhase
  rw [if_neg (by simp [ha])]
  split <;> simp_all

/-- Everything a data access can come to. -/
theorem dataPhase_cases (m : MemReq) :
    dataPhase m s = (dataStart s).setAccessFault m.type ∨
    (∃ pa, dataPhase m s = dataTransfer m pa (translate (dataStart s) m.va m.type).2) ∨
    dataPhase m s = (translate (dataStart s) m.va m.type).2.setAccessFault m.type ∨
    dataPhase m s = (translate (dataStart s) m.va m.type).2.setPageFault m.type := by
  cases ha : misaligned m.size m.va with
  | true => exact .inl (dataPhase_misaligned s ha)
  | false =>
    right
    cases ht : (translate (dataStart s) m.va m.type).1 with
    | ok pa =>
      cases hb : s.inBounds pa with
      | true => exact .inl ⟨pa, dataPhase_ok s ha ht hb⟩
      | false => exact .inr (.inl (dataPhase_outOfBounds s ha ht hb))
    | pageFault => exact .inr (.inr (dataPhase_pageFault s ha ht))
    | accessFault => exact .inr (.inl (dataPhase_walkFault s ha ht))
    | pending => exact absurd ht (translate_ne_pending _ _ _)

@[simp] theorem dataPhase_x (m : MemReq) : (dataPhase m s).x = s.x := by
  rcases dataPhase_cases s m with h | ⟨pa, h⟩ | h | h <;> simp [h]
@[simp] theorem dataPhase_pc (m : MemReq) : (dataPhase m s).pc = s.pc := by
  rcases dataPhase_cases s m with h | ⟨pa, h⟩ | h | h <;> simp [h]
@[simp] theorem dataPhase_priv (m : MemReq) : (dataPhase m s).priv = s.priv := by
  rcases dataPhase_cases s m with h | ⟨pa, h⟩ | h | h <;> simp [h]
@[simp] theorem dataPhase_csr (m : MemReq) : (dataPhase m s).csr = s.csr := by
  rcases dataPhase_cases s m with h | ⟨pa, h⟩ | h | h <;> simp [h]
@[simp] theorem dataPhase_res (m : MemReq) : (dataPhase m s).res = s.res := by
  rcases dataPhase_cases s m with h | ⟨pa, h⟩ | h | h <;> simp [h]
@[simp] theorem dataPhase_stage (m : MemReq) : (dataPhase m s).stage = s.stage := by
  rcases dataPhase_cases s m with h | ⟨pa, h⟩ | h | h <;> simp [h]
@[simp] theorem dataPhase_instWord (m : MemReq) : (dataPhase m s).instWord = s.instWord := by
  rcases dataPhase_cases s m with h | ⟨pa, h⟩ | h | h <;> simp [h]
@[simp] theorem dataPhase_fetchPaddr (m : MemReq) : (dataPhase m s).fetchPaddr = s.fetchPaddr := by
  rcases dataPhase_cases s m with h | ⟨pa, h⟩ | h | h <;> simp [h]
@[simp] theorem dataPhase_bus (m : MemReq) : (dataPhase m s).bus = s.bus := by
  rcases dataPhase_cases s m with h | ⟨pa, h⟩ | h | h <;> simp [h]
@[simp] theorem dataPhase_status (m : MemReq) : (dataPhase m s).status = s.status := by
  rcases dataPhase_cases s m with h | ⟨pa, h⟩ | h | h <;> simp [h]
@[simp] theorem dataPhase_draws (m : MemReq) : (dataPhase m s).draws = s.draws := by
  rcases dataPhase_cases s m with h | ⟨pa, h⟩ | h | h <;> simp [h]
@[simp] theorem dataPhase_cfg (m : MemReq) : (dataPhase m s).cfg = s.cfg := by
  rcases dataPhase_cases s m with h | ⟨pa, h⟩ | h | h <;> simp [h]

@[simp] theorem dataPhase_reg (m : MemReq) (q : Reg) : (dataPhase m s).reg q = s.reg q := by simp [State.reg]

/-- The store latch is clear after the access. -/
@[simp] theorem dataPhase_latch_store (m : MemReq) : (dataPhase m s).latch.store = false := by
  rcases dataPhase_cases s m with h | ⟨pa, h⟩ | h | h <;> simp [h]

/-- An access that is not a store leaves the slave and the UART alone. -/
theorem dataPhase_slave {m : MemReq} (hk : m.kind ≠ .store) :
    (dataPhase m s).slave = s.slave ∧ (dataPhase m s).uartOut = s.uartOut := by
  rcases dataPhase_cases s m with h | ⟨pa, h⟩ | h | h <;> simp [h, dataTransfer_read _ hk]

end Sys2Proof.Machine
end

