-- ==== Sys2Proof/Laws/Access.lean ====
section
/-! SUPPORT. What a translation depends on, what it keeps of the address, and the bytes an aligned access reads and
writes. -/

namespace Sys2Proof.Machine

variable (s : State)

/-! ## What a translation depends on -/

/-- Two states a translation cannot tell apart: same CSRs, privilege, PTW cache, slave and bounds. -/
def State.sameForWalk (s t : State) : Prop :=
  t.csr = s.csr ∧ t.priv = s.priv ∧ t.ptw = s.ptw ∧ t.slave = s.slave ∧ t.cfg = s.cfg

theorem pteReadDirect_congr {s t : State} (h : s.sameForWalk t) (pa : Word) :
    (pteReadDirect t pa).1 = (pteReadDirect s pa).1 ∧ (pteReadDirect s pa).2.sameForWalk (pteReadDirect t pa).2 := by
  obtain ⟨h1, h2, h3, h4, h5⟩ := h
  unfold pteReadDirect
  have hb : t.inBounds pa = s.inBounds pa := by simp [State.inBounds, h5]
  have hl : t.ptwLookup pa = s.ptwLookup pa := by simp [State.ptwLookup, h3]
  rw [hb, hl]
  split
  · exact ⟨rfl, h1, h2, h3, h4, h5⟩
  · split
    · exact ⟨rfl, h1, h2, h3, h4, h5⟩
    · rw [busRead_eq, busRead_eq, h4]
      cases s.slave.readErr.contains (wordAddress pa)
      · exact ⟨rfl, h1, h2, by simp [State.ptwFill, State.tickBy, h3], rfl, h5⟩
      · exact ⟨rfl, h1, h2, h3, rfl, h5⟩

theorem leafResult_congr {s t : State} (h : s.sameForWalk t) (pte va : Word) (ty : Access) (eff : Priv) (l : Bool) :
    leafResult t pte va ty eff l = leafResult s pte va ty eff l := by
  simp [leafResult, permitted, h.1]

theorem walkLevel0_congr {s t : State} (h : s.sameForWalk t) (base va : Word) (ty : Access) (eff : Priv) :
    (walkLevel0 pteReadDirect t base va ty eff).1 = (walkLevel0 pteReadDirect s base va ty eff).1 ∧
      (walkLevel0 pteReadDirect s base va ty eff).2.sameForWalk (walkLevel0 pteReadDirect t base va ty eff).2 := by
  have hr := pteReadDirect_congr h (pteAddress base (va.extractLsb' 12 10))
  unfold walkLevel0
  rcases ha : pteReadDirect s (pteAddress base (va.extractLsb' 12 10)) with ⟨r, s1⟩
  rcases hb : pteReadDirect t (pteAddress base (va.extractLsb' 12 10)) with ⟨r', t1⟩
  rw [ha, hb] at hr
  obtain ⟨rfl, hw⟩ : r' = r ∧ s1.sameForWalk t1 := hr
  cases r' with
  | pending => exact ⟨rfl, hw⟩
  | fault => exact ⟨rfl, hw⟩
  | ok pte =>
    dsimp only
    cases pteClass pte with
    | invalid => exact ⟨rfl, hw⟩
    | leaf => exact ⟨leafResult_congr hw .., hw⟩
    | pointer => exact ⟨rfl, hw⟩

/-- A translation gives the same answer in both states, and leaves them alike. -/
theorem translate_congr {s t : State} (h : s.sameForWalk t) (va : Word) (ty : Access) :
    (translate t va ty).1 = (translate s va ty).1 ∧ (translate s va ty).2.sameForWalk (translate t va ty).2 := by
  have he : effPriv t ty = effPriv s ty := by cases ty <;> simp [effPriv, h.1, h.2.1]
  have ho : translationOn t ty = translationOn s ty := by simp [translationOn, he, h.1]
  unfold translate translateWith
  rw [ho, he]
  split
  · have hr := pteReadDirect_congr h (pteAddress (pageAddress (satpPpn s.csr.satp)) (va.extractLsb' 22 10))
    unfold walk
    rw [h.1]
    rcases ha : pteReadDirect s (pteAddress (pageAddress (satpPpn s.csr.satp)) (va.extractLsb' 22 10)) with ⟨r, s1⟩
    rcases hb : pteReadDirect t (pteAddress (pageAddress (satpPpn s.csr.satp)) (va.extractLsb' 22 10)) with ⟨r', t1⟩
    rw [ha, hb] at hr
    obtain ⟨rfl, hw⟩ : r' = r ∧ s1.sameForWalk t1 := hr
    cases r' with
    | pending => exact ⟨rfl, hw⟩
    | fault => exact ⟨rfl, hw⟩
    | ok pte =>
      dsimp only
      cases pteClass pte with
      | invalid => exact ⟨rfl, hw⟩
      | leaf => exact ⟨leafResult_congr hw .., hw⟩
      | pointer => exact walkLevel0_congr hw ..
  · exact ⟨rfl, h⟩

/-- The data flags and the store latch do not matter to a translation. -/
theorem translate_dataStart (va : Word) (ty : Access) :
    (translate (dataStart s) va ty).1 = (translate s va ty).1 :=
  (translate_congr (s := s) (t := dataStart s) ⟨rfl, rfl, rfl, rfl, rfl⟩ va ty).1

/-- Nor to what it leaves in the PTW cache. -/
theorem translate_dataStart_ptw (va : Word) (ty : Access) :
    (translate (dataStart s) va ty).2.ptw = (translate s va ty).2.ptw :=
  (translate_congr (s := s) (t := dataStart s) ⟨rfl, rfl, rfl, rfl, rfl⟩ va ty).2.2.2.1

/-! ## What a translation keeps of the address (R117) -/

theorem leafAddress_offset (pte va : Word) (l : Bool) : (leafAddress pte va l).extractLsb' 0 12 = va.extractLsb' 0 12 := by
  apply BitVec.eq_of_getLsbD_eq
  intro i hi
  have e : ∀ w : Word, (w <<< 12).getLsbD i = false := by intro w; simp [hi]
  simp only [leafAddress, pageAddress, BitVec.getLsbD_extractLsb', BitVec.getLsbD_or, BitVec.getLsbD_setWidth, hi,
    decide_true, Bool.true_and, Nat.zero_add]
  cases l <;> simp [e] <;> grind

/-- A translation keeps the low 12 bits of the address. -/
theorem translate_offset {va pa : Word} {ty : Access} (h : (translate s va ty).1 = .ok pa) :
    pa.toNat % 2 ^ 12 = va.toNat % 2 ^ 12 := by
  suffices hs : pa.extractLsb' 0 12 = va.extractLsb' 0 12 by
    have := congrArg BitVec.toNat hs
    simpa [BitVec.extractLsb'_toNat] using this
  have hleaf : ∀ (u : State) (pte : Word) (eff : Priv) (l : Bool), leafResult u pte va ty eff l = .ok pa →
      pa.extractLsb' 0 12 = va.extractLsb' 0 12 := by
    intro u pte eff l hl
    unfold leafResult at hl
    split at hl
    · simp at hl
    · split at hl
      · simp at hl
      · split at hl
        · simp at hl
        · simp only [Translation.ok.injEq] at hl
          rw [← hl, leafAddress_offset]
  have h0 : ∀ (u : State) (base : Word) (eff : Priv), (walkLevel0 pteReadDirect u base va ty eff).1 = .ok pa →
      pa.extractLsb' 0 12 = va.extractLsb' 0 12 := by
    intro u base eff hl
    unfold walkLevel0 at hl
    split at hl
    · simp at hl
    · simp at hl
    · split at hl
      · simp at hl
      · exact hleaf _ _ _ _ hl
      · simp at hl
  unfold translate translateWith at h
  split at h
  · unfold walk at h
    split at h
    · simp at h
    · simp at h
    · split at h
      · simp at h
      · exact hleaf _ _ _ _ h
      · exact h0 _ _ _ h
  · simp only [Translation.ok.injEq] at h
    rw [h]

/-- An access of 1, 2 or 4 bytes aligned on its virtual address is aligned on its physical one. -/
theorem translate_aligned {va pa : Word} {ty : Access} {n : Nat} (h : (translate s va ty).1 = .ok pa)
    (hn : n = 1 ∨ n = 2 ∨ n = 4) (ha : va.toNat % n = 0) : pa.toNat % n = 0 := by
  have ho := translate_offset s h
  rcases hn with rfl | rfl | rfl <;> omega

/-! ## The bytes of an aligned access (R90, R278, R279, R410) -/

/-- The word that holds an address, byte by byte. -/
theorem byteOfWord_readWord (m : Memory) (a : Word) {k : Nat} (hk : k < 4) :
    byteOfWord (m.readWord a) k = m.readByte (wordBase a + k) := by
  have hw : ∀ b0 b1 b2 b3 : Byte, ∀ j, j < 4 →
      byteOfWord (wordOfBytes b0 b1 b2 b3) j = [b0, b1, b2, b3].getD j 0#8 := by
    intro b0 b1 b2 b3 j hj
    have hj : j = 0 ∨ j = 1 ∨ j = 2 ∨ j = 3 := by omega
    rcases hj with rfl | rfl | rfl | rfl <;>
    · apply BitVec.eq_of_getLsbD_eq
      intro i hi
      simp only [wordOfBytes, byteOfWord, BitVec.getLsbD_or, BitVec.getLsbD_shiftLeft, BitVec.getLsbD_setWidth,
        BitVec.getLsbD_extractLsb', List.getD]
      simp
      grind
  have hk : k = 0 ∨ k = 1 ∨ k = 2 ∨ k = 3 := by omega
  unfold Memory.readWord
  rcases hk with rfl | rfl | rfl | rfl <;> simp [hw]

theorem wordBase_add (pa : Word) : wordBase pa + pa.toNat % 4 = pa.toNat := by
  unfold wordBase; omega

/-- The strobes of an aligned access enable the lanes of its bytes (R410). -/
theorem laneStrobe_getLsbD {n : Nat} {pa : Word} (hn : n = 1 ∨ n = 2 ∨ n = 4) (ha : pa.toNat % n = 0) {k : Nat}
    (hk : k < 4) :
    (laneStrobe n pa).getLsbD k = decide (pa.toNat ≤ wordBase pa + k ∧ wordBase pa + k < pa.toNat + n) := by
  have hb := wordBase_add pa
  have hl : pa.toNat % 4 = 0 ∨ pa.toNat % 4 = 1 ∨ pa.toNat % 4 = 2 ∨ pa.toNat % 4 = 3 := by omega
  have hk' : k = 0 ∨ k = 1 ∨ k = 2 ∨ k = 3 := by omega
  unfold laneStrobe
  rcases hn with rfl | rfl | rfl <;> rcases hl with h | h | h | h <;> (try omega) <;>
    rw [h] at hb ⊢ <;> rcases hk' with rfl | rfl | rfl | rfl <;> simp <;> omega

/-- The data lanes of an aligned access hold its bytes (R410). -/
theorem laneData_byte {n : Nat} {pa v : Word} (hn : n = 1 ∨ n = 2 ∨ n = 4) (ha : pa.toNat % n = 0) {k : Nat}
    (hk : k < n) : byteOfWord (laneData n v pa) (pa.toNat % 4 + k) = byteOfWord v k := by
  have hm : ∀ j, (BitVec.ofNat 32 (2 ^ (8 * n) - 1)).getLsbD j = (decide (j < 32) && decide (j < 8 * n)) := by
    intro j
    rw [BitVec.getLsbD_ofNat, Nat.testBit_two_pow_sub_one]
  have hp : pa.toNat % 4 + n ≤ 4 := by rcases hn with rfl | rfl | rfl <;> omega
  unfold laneData byteOfWord
  apply BitVec.eq_of_getLsbD_eq
  intro i hi
  simp only [BitVec.getLsbD_extractLsb', BitVec.getLsbD_shiftLeft, BitVec.getLsbD_and, hm, hi, decide_true, Bool.true_and]
  have e : 8 * (pa.toNat % 4 + k) + i - 8 * (pa.toNat % 4) = 8 * k + i := by omega
  have c1 : 8 * (pa.toNat % 4 + k) + i < 32 := by omega
  have c2 : ¬8 * (pa.toNat % 4 + k) + i < 8 * (pa.toNat % 4) := by omega
  have c3 : 8 * k + i < 8 * n := by omega
  have c4 : 8 * k + i < 32 := by omega
  simp [e, c1, c2, c3, c4]

/-- A strobed write of an aligned access: its bytes hold the value's, every other byte is kept. -/
theorem Memory.readByte_writeAccess {m : Memory} (h : m.wf = true) {n : Nat} {pa : Word} (v : Word)
    (hn : n = 1 ∨ n = 2 ∨ n = 4) (ha : pa.toNat % n = 0) (a : Nat) :
    (m.writeLanes pa (laneData n v pa) (laneStrobe n pa)).readByte a =
      if pa.toNat ≤ a ∧ a < pa.toNat + n then byteOfWord v (a - pa.toNat) else m.readByte a := by
  have hb := wordBase_add pa
  rw [Memory.readByte_writeLanes h]
  by_cases hr : wordBase pa ≤ a ∧ a < wordBase pa + 4
  · have hs := laneStrobe_getLsbD hn ha (k := a - wordBase pa) (by omega)
    have e : wordBase pa + (a - wordBase pa) = a := by omega
    rw [e] at hs
    rw [hs]
    by_cases hi : pa.toNat ≤ a ∧ a < pa.toNat + n
    · rw [if_pos ⟨hr.1, hr.2, by simpa using hi⟩, if_pos hi, ← laneData_byte hn ha (k := a - pa.toNat) (by omega)]
      congr 1
      omega
    · rw [if_neg (by simp; intros; omega), if_neg hi]
  · rw [if_neg (by tauto), if_neg (by rcases hn with rfl | rfl | rfl <;> omega)]

end Sys2Proof.Machine
end

