-- ==== Sys2Proof/Laws/Encoding.lean ====
section
/-! SUPPORT. Every field of a packed word is the field that was packed (R142, R145), and the masks of R151 seen through
the same fields. -/

namespace Sys2Proof

variable (f7 : BitVec 7) (rs2 rs1 rd : Reg) (f3 : BitVec 3) (op : BitVec 7)

@[simp] theorem opcodeOf_packR : opcodeOf (packR f7 rs2 rs1 f3 rd op) = op := by
  apply BitVec.eq_of_getLsbD_eq
  intro i hi
  simp only [opcodeOf, packR, BitVec.getLsbD_or, BitVec.getLsbD_shiftLeft, BitVec.getLsbD_setWidth,
    BitVec.getLsbD_extractLsb']
  grind

@[simp] theorem rdOf_packR : rdOf (packR f7 rs2 rs1 f3 rd op) = rd := by
  apply BitVec.eq_of_getLsbD_eq
  intro i hi
  simp only [rdOf, packR, BitVec.getLsbD_or, BitVec.getLsbD_shiftLeft, BitVec.getLsbD_setWidth,
    BitVec.getLsbD_extractLsb']
  grind

@[simp] theorem funct3Of_packR : funct3Of (packR f7 rs2 rs1 f3 rd op) = f3 := by
  apply BitVec.eq_of_getLsbD_eq
  intro i hi
  simp only [funct3Of, packR, BitVec.getLsbD_or, BitVec.getLsbD_shiftLeft, BitVec.getLsbD_setWidth,
    BitVec.getLsbD_extractLsb']
  grind

@[simp] theorem rs1Of_packR : rs1Of (packR f7 rs2 rs1 f3 rd op) = rs1 := by
  apply BitVec.eq_of_getLsbD_eq
  intro i hi
  simp only [rs1Of, packR, BitVec.getLsbD_or, BitVec.getLsbD_shiftLeft, BitVec.getLsbD_setWidth,
    BitVec.getLsbD_extractLsb']
  grind

@[simp] theorem rs2Of_packR : rs2Of (packR f7 rs2 rs1 f3 rd op) = rs2 := by
  apply BitVec.eq_of_getLsbD_eq
  intro i hi
  simp only [rs2Of, packR, BitVec.getLsbD_or, BitVec.getLsbD_shiftLeft, BitVec.getLsbD_setWidth,
    BitVec.getLsbD_extractLsb']
  grind

@[simp] theorem funct7Of_packR : funct7Of (packR f7 rs2 rs1 f3 rd op) = f7 := by
  apply BitVec.eq_of_getLsbD_eq
  intro i hi
  simp only [funct7Of, packR, BitVec.getLsbD_or, BitVec.getLsbD_shiftLeft, BitVec.getLsbD_setWidth,
    BitVec.getLsbD_extractLsb']
  grind

/-- A word is its six R fields packed. -/
theorem packR_fields (w : Word) :
    packR (funct7Of w) (rs2Of w) (rs1Of w) (funct3Of w) (rdOf w) (opcodeOf w) = w := by
  apply BitVec.eq_of_getLsbD_eq
  intro i hi
  simp only [packR, funct7Of, rs2Of, rs1Of, funct3Of, rdOf, opcodeOf, BitVec.getLsbD_or, BitVec.getLsbD_shiftLeft,
    BitVec.getLsbD_setWidth, BitVec.getLsbD_extractLsb']
  grind

/-- Masking a packed word masks its fields. -/
theorem packR_and (g7 : BitVec 7) (s2 s1 d : Reg) (g3 : BitVec 3) (o : BitVec 7) :
    packR f7 rs2 rs1 f3 rd op &&& packR g7 s2 s1 g3 d o =
      packR (f7 &&& g7) (rs2 &&& s2) (rs1 &&& s1) (f3 &&& g3) (rd &&& d) (op &&& o) := by
  apply BitVec.eq_of_getLsbD_eq
  intro i hi
  simp only [packR, BitVec.getLsbD_and, BitVec.getLsbD_or, BitVec.getLsbD_shiftLeft, BitVec.getLsbD_setWidth]
  grind

/-! ## The other formats through R's fields -/

theorem funct7Of_eq_immIOf (w : Word) : funct7Of w = (immIOf w).extractLsb' 5 7 := by
  apply BitVec.eq_of_getLsbD_eq
  intro i hi
  simp only [funct7Of, immIOf, BitVec.getLsbD_extractLsb']
  grind

theorem rs2Of_eq_immIOf (w : Word) : rs2Of w = (immIOf w).extractLsb' 0 5 := by
  apply BitVec.eq_of_getLsbD_eq
  intro i hi
  simp only [rs2Of, immIOf, BitVec.getLsbD_extractLsb']
  grind

@[simp] theorem immIOf_packI (imm : BitVec 12) : immIOf (packI imm rs1 f3 rd op) = imm := by
  apply BitVec.eq_of_getLsbD_eq
  intro i hi
  simp only [immIOf, packI, packR, BitVec.getLsbD_or, BitVec.getLsbD_shiftLeft, BitVec.getLsbD_setWidth,
    BitVec.getLsbD_extractLsb']
  grind

@[simp] theorem immSOf_packS (imm : BitVec 12) : immSOf (packS imm rs2 rs1 f3 op) = imm := by
  apply BitVec.eq_of_getLsbD_eq
  intro i hi
  simp only [immSOf, packS, packR, BitVec.getLsbD_or, BitVec.getLsbD_shiftLeft, BitVec.getLsbD_setWidth,
    BitVec.getLsbD_extractLsb']
  grind

@[simp] theorem immUOf_packU (imm : BitVec 20) : immUOf (packU imm rd op) = imm := by
  apply BitVec.eq_of_getLsbD_eq
  intro i hi
  simp only [immUOf, packU, packR, BitVec.getLsbD_or, BitVec.getLsbD_shiftLeft, BitVec.getLsbD_setWidth,
    BitVec.getLsbD_extractLsb']
  grind

/-- A branch offset comes back when its bit 0, which the encoding has no place for, is 0. -/
theorem offBOf_packB {off : BitVec 13} (h : evenOffset off = true) : offBOf (packB off rs2 rs1 f3 op) = off := by
  apply BitVec.eq_of_getLsbD_eq
  intro i hi
  have h0 : off.getLsbD 0 = false := by simpa only [evenOffset, Bool.not_eq_true'] using h
  simp only [offBOf, packB, packR, BitVec.getLsbD_or, BitVec.getLsbD_shiftLeft, BitVec.getLsbD_setWidth,
    BitVec.getLsbD_extractLsb']
  grind

/-- A JAL offset likewise. -/
theorem offJOf_packJ {off : BitVec 21} (h : evenOffset off = true) : offJOf (packU (jField off) rd op) = off := by
  apply BitVec.eq_of_getLsbD_eq
  intro i hi
  have h0 : off.getLsbD 0 = false := by simpa only [evenOffset, Bool.not_eq_true'] using h
  simp only [offJOf, packU, jField, packR, BitVec.getLsbD_or, BitVec.getLsbD_shiftLeft, BitVec.getLsbD_setWidth,
    BitVec.getLsbD_extractLsb']
  grind

theorem funct5Of_eq (w : Word) : funct5Of w = (funct7Of w).extractLsb' 2 5 := by
  apply BitVec.eq_of_getLsbD_eq
  intro i hi
  simp only [funct5Of, funct7Of, BitVec.getLsbD_extractLsb']
  grind

theorem fmtOf_eq (w : Word) : fmtOf w = (funct7Of w).extractLsb' 0 2 := by
  apply BitVec.eq_of_getLsbD_eq
  intro i hi
  simp only [fmtOf, funct7Of, BitVec.getLsbD_extractLsb']
  grind

theorem aqOf_eq (w : Word) : aqOf w = (funct7Of w).getLsbD 1 := by
  simp [aqOf, funct7Of]

theorem rlOf_eq (w : Word) : rlOf w = (funct7Of w).getLsbD 0 := by
  simp [rlOf, funct7Of]

@[simp] theorem amoFunct7_funct5 (f5 : BitVec 5) (aq rl : Bool) : (amoFunct7 f5 aq rl).extractLsb' 2 5 = f5 := by
  revert f5 aq rl; decide

@[simp] theorem amoFunct7_aq (f5 : BitVec 5) (aq rl : Bool) : (amoFunct7 f5 aq rl).getLsbD 1 = aq := by
  revert f5 aq rl; decide

@[simp] theorem amoFunct7_rl (f5 : BitVec 5) (aq rl : Bool) : (amoFunct7 f5 aq rl).getLsbD 0 = rl := by
  revert f5 aq rl; decide

@[simp] theorem r4Funct7_rs3 (rs3 : Reg) : (r4Funct7 rs3).extractLsb' 2 5 = rs3 := by revert rs3; decide

@[simp] theorem r4Funct7_fmt (rs3 : Reg) : (r4Funct7 rs3).extractLsb' 0 2 = 0#2 := by revert rs3; decide

end Sys2Proof
end

