-- ==== Sys2Proof/Laws/Float.lean ====
section
/-! SUPPORT. Binary32 rounding (R386): the grid of finite magnitudes, what `assemble` makes of an exact value between two
neighbours, and that quotients and square roots are given to it at their true position. -/

namespace Sys2Proof.Machine

/-! ## The grid of finite magnitudes -/

/-- The magnitude, in units of 2^-149, that the 31 low bits of a datum stand for. -/
def gridPoint (m : Nat) : Nat := if m < 2 ^ 23 then m else (2 ^ 23 + m % 2 ^ 23) * 2 ^ (m / 2 ^ 23 - 1)

theorem magnitude_eq (v : Word) : magnitude v = gridPoint (v.toNat % 2 ^ 31) := by
  have hf : fFrac v = v.toNat % 2 ^ 31 % 2 ^ 23 := by
    simp only [fFrac, BitVec.extractLsb'_toNat]; omega
  have he : fExp v = v.toNat % 2 ^ 31 / 2 ^ 23 := by
    simp only [fExp, BitVec.extractLsb'_toNat, Nat.shiftRight_eq_div_pow]; omega
  unfold magnitude gridPoint
  rw [hf, he]
  by_cases h : v.toNat % 2 ^ 31 < 2 ^ 23
  · rw [if_pos (by omega), if_pos h, Nat.mod_eq_of_lt h]
  · rw [if_neg (by omega), if_neg h]

/-- A significand `q` scaled by `2^e`, as R386 takes the neighbours of a real number: 24 bits, fewer only on the
subnormal grid. -/
def isScaled (q e : Nat) : Prop := q ≤ 2 ^ 24 ∧ (2 ^ 23 ≤ q ∨ e = 0)

theorem gridPoint_scaled {q e : Nat} (h : isScaled q e) : gridPoint (e * 2 ^ 23 + q) = q * 2 ^ e := by
  obtain ⟨h1, h2⟩ := h
  unfold gridPoint
  by_cases hs : q < 2 ^ 23
  · obtain rfl : e = 0 := h2.resolve_left (by omega)
    rw [if_pos (by omega)]
    omega
  · rw [if_neg (by omega)]
    rcases Nat.lt_or_ge q (2 ^ 24) with hq | hq
    · rw [show (e * 2 ^ 23 + q) % 2 ^ 23 = q - 2 ^ 23 by omega, show (e * 2 ^ 23 + q) / 2 ^ 23 - 1 = e by omega,
        Nat.add_sub_cancel' (by omega)]
    · obtain rfl : q = 2 ^ 24 := by omega
      rw [show (e * 2 ^ 23 + 2 ^ 24) % 2 ^ 23 = 0 by omega, show (e * 2 ^ 23 + 2 ^ 24) / 2 ^ 23 - 1 = e + 1 by omega,
        Nat.pow_succ]
      ring

/-- Every magnitude is a scaled significand below the last one of its binade. -/
theorem exists_scaled (m : Nat) : ∃ q e, m = e * 2 ^ 23 + q ∧ q < 2 ^ 24 ∧ (2 ^ 23 ≤ q ∨ e = 0) := by
  by_cases h : m < 2 ^ 23
  · exact ⟨m, 0, by omega, by omega, .inr rfl⟩
  · exact ⟨2 ^ 23 + m % 2 ^ 23, m / 2 ^ 23 - 1, by omega, by omega, .inl (by omega)⟩

theorem gridPoint_strictMono : StrictMono gridPoint := by
  refine strictMono_nat_of_lt_succ fun m => ?_
  obtain ⟨q, e, rfl, hq, he⟩ := exists_scaled m
  rw [gridPoint_scaled ⟨by omega, he⟩, Nat.add_assoc, gridPoint_scaled ⟨hq, he.imp_left (by omega)⟩]
  exact Nat.mul_lt_mul_of_pos_right (Nat.lt_succ_self q) (by positivity)

theorem gridPoint_infinity : gridPoint (255 * 2 ^ 23) = 2 ^ 277 := by decide +kernel

theorem gridPoint_largest : gridPoint (255 * 2 ^ 23 - 1) = 2 ^ 277 - 2 ^ 253 := by decide +kernel

/-! ## A datum's number -/

theorem isFinite_iff (v : Word) : isFinite v ↔ v.toNat % 2 ^ 31 < 255 * 2 ^ 23 := by
  unfold isFinite
  rw [ne_eq, ← BitVec.toNat_inj]
  simp only [BitVec.extractLsb'_toNat, Nat.shiftRight_eq_div_pow, BitVec.toNat_ofNat]
  omega

theorem datum_eq_magnitude (v : Word) :
    datum v = (if v.getLsbD 31 then -1 else 1) * (magnitude v : ℚ) / 2 ^ 149 := by
  have h0 : v.extractLsb' 23 8 = 0#8 ↔ fExp v = 0 := by rw [← BitVec.toNat_inj]; rfl
  unfold datum magnitude
  rw [mul_div_assoc]
  congr 1
  by_cases h : v.extractLsb' 23 8 = 0#8
  · rw [if_pos h, if_pos (h0.1 h), zpow_neg, ← div_eq_mul_inv]
    rfl
  · rw [if_neg h, if_neg (h0.not.1 h)]
    have he : 1 ≤ fExp v := Nat.one_le_iff_ne_zero.2 (h0.not.1 h)
    have : ((v.extractLsb' 23 8).toNat : ℤ) - 150 = ((fExp v - 1 : ℕ) : ℤ) - (149 : ℕ) := by
      push_cast [he]; unfold fExp; ring
    rw [this, zpow_sub₀ (by norm_num), zpow_natCast, zpow_natCast, mul_div_assoc']
    push_cast
    rfl

theorem datum_eq (v : Word) : datum v = (fValue v : ℚ) / 2 ^ 149 := by
  rw [datum_eq_magnitude]
  unfold fValue fSign
  cases v.getLsbD 31 <;> simp

theorem abs_datum (v : Word) : |datum v| = (magnitude v : ℚ) / 2 ^ 149 := by
  rw [datum_eq_magnitude, abs_div, abs_mul]
  cases v.getLsbD 31 <;> simp

/-! ## A rounded magnitude as a word -/

theorem withSign_bit31 (neg : Bool) {m : Nat} (h : m < 2 ^ 31) : (withSign neg (BitVec.ofNat 32 m)).getLsbD 31 = neg := by
  have : (BitVec.ofNat 32 m).getLsbD 31 = false := by
    rw [BitVec.getLsbD_ofNat, Nat.testBit_lt_two_pow h]; rfl
  cases neg
  · exact this
  · simp only [withSign, if_true, BitVec.getLsbD_or, this, Bool.false_or]; decide

theorem withSign_low (neg : Bool) {m : Nat} (h : m < 2 ^ 31) : (withSign neg (BitVec.ofNat 32 m)).toNat % 2 ^ 31 = m := by
  cases neg
  · simp only [withSign, Bool.false_eq_true, if_false, BitVec.toNat_ofNat]; omega
  · simp only [withSign, if_true, BitVec.toNat_or, BitVec.toNat_ofNat]
    rw [← Nat.and_two_pow_sub_one_eq_mod, Nat.and_or_distrib_right, Nat.and_two_pow_sub_one_eq_mod,
      show 2147483648 % 2 ^ 32 &&& 2 ^ 31 - 1 = 0 by decide, Nat.or_zero]
    omega

theorem withSign_bit0 (neg : Bool) (m : Nat) : (withSign neg (BitVec.ofNat 32 m)).getLsbD 0 = decide (m % 2 = 1) := by
  have : (BitVec.ofNat 32 m).getLsbD 0 = decide (m % 2 = 1) := by
    rw [BitVec.getLsbD_ofNat, Nat.testBit_zero]; rfl
  cases neg
  · exact this
  · rw [withSign, if_pos rfl, BitVec.getLsbD_or, this, show (0x80000000#32).getLsbD 0 = false by decide, Bool.or_false]

theorem isFinite_withSign (neg : Bool) {m : Nat} (h : m < 255 * 2 ^ 23) : isFinite (withSign neg (BitVec.ofNat 32 m)) := by
  rw [isFinite_iff, withSign_low neg (by omega)]; exact h

/-- Every datum is a sign and a point of the grid. -/
theorem datum_eq_grid (v : Word) :
    datum v = (if v.getLsbD 31 then -1 else 1) * (gridPoint (v.toNat % 2 ^ 31) : ℚ) / 2 ^ 149 := by
  rw [datum_eq_magnitude, magnitude_eq]

/-- The encoding that rounding selects: that of the lower neighbour, or the next one. -/
def roundedCode (rm : Rounding) (neg : Bool) (q e : Nat) (p : Position) : Nat :=
  e * 2 ^ 23 + roundedMagnitude rm neg q p

theorem assemble_eq (rm : Rounding) (neg : Bool) {q e : Nat} (p : Position) (hq : q < 2 ^ 24) (he : 2 ^ 23 ≤ q ∨ e = 0) :
    assemble rm neg q e p =
      if 255 * 2 ^ 23 ≤ roundedCode rm neg q e p then overflowResult rm neg
      else withSign neg (BitVec.ofNat 32 (roundedCode rm neg q e p)) := by
  have hr : isScaled (roundedMagnitude rm neg q p) e := by
    unfold isScaled roundedMagnitude; split <;> exact ⟨by omega, he.imp_left (by omega)⟩
  have : 2 ^ 277 ≤ roundedMagnitude rm neg q p * 2 ^ e ↔ 255 * 2 ^ 23 ≤ roundedCode rm neg q e p := by
    rw [← gridPoint_scaled hr, ← gridPoint_infinity]
    exact gridPoint_strictMono.le_iff_le
  unfold assemble
  simp only [this]
  rfl

/-! ## Where the exact value lies -/

/-- The exact magnitude `y`, in units, lies at position `p` between `q * 2^e` and `(q + 1) * 2^e`. -/
def liesAt (y : ℝ) (q e : Nat) (p : Position) : Prop :=
  match p with
  | .exact => y = q * 2 ^ e
  | .below => q * 2 ^ e < y ∧ y < (q + 1 / 2) * 2 ^ e
  | .half => y = (q + 1 / 2) * 2 ^ e
  | .above => (q + 1 / 2) * 2 ^ e < y ∧ y < (q + 1) * 2 ^ e

/-- The exact magnitude against the two neighbours' grid points. -/
structure Between (y : ℝ) (m : Nat) (p : Position) : Prop where
  pos : 0 < y
  lower : (gridPoint m : ℝ) ≤ y
  upper : y < gridPoint (m + 1)
  exact : p = .exact ↔ y = gridPoint m
  half : p = .half ↔ 2 * y = gridPoint m + gridPoint (m + 1)
  above : p = .above ↔ (gridPoint m + gridPoint (m + 1) : ℝ) < 2 * y

theorem Between.of_values {y : ℝ} {q e m : Nat} {p : Position} (hy : 0 < y) (h : liesAt y q e p)
    (h1 : (gridPoint m : ℝ) = q * 2 ^ e) (h2 : (gridPoint (m + 1) : ℝ) = (q + 1) * 2 ^ e) : Between y m p := by
  have h3 : (0 : ℝ) < 2 ^ e := by positivity
  have hh : ((q : ℝ) + 1 / 2) * 2 ^ e = (q : ℝ) * 2 ^ e + 2 ^ e / 2 := by ring
  have hb : ((q : ℝ) + 1) * 2 ^ e = (q : ℝ) * 2 ^ e + 2 ^ e := by ring
  cases p <;> simp only [liesAt, hh, hb] at h h2 <;> constructor <;> first
    | linarith
    | (simp only [reduceCtorEq, true_iff, false_iff]; linarith)

theorem Between.of_liesAt {y : ℝ} {q e : Nat} {p : Position} (hy : 0 < y) (h : liesAt y q e p) (hq : q < 2 ^ 24)
    (he : 2 ^ 23 ≤ q ∨ e = 0) : Between y (e * 2 ^ 23 + q) p := by
  refine .of_values hy h ?_ ?_
  · rw [gridPoint_scaled ⟨by omega, he⟩]; push_cast; rfl
  · rw [Nat.add_assoc, gridPoint_scaled ⟨by omega, he.imp_left (by omega)⟩]; push_cast; rfl

namespace Between
variable {y : ℝ} {m : Nat} {p : Position}

theorem le_of_le (h : Between y m p) {k : Nat} (hk : (gridPoint k : ℝ) ≤ y) : k ≤ m := by
  have : gridPoint k < gridPoint (m + 1) := by exact_mod_cast hk.trans_lt h.upper
  exact Nat.lt_succ_iff.1 (gridPoint_strictMono.lt_iff_lt.1 this)

theorem lt_of_lt (h : Between y m p) {k : Nat} (hk : y < (gridPoint k : ℝ)) : m < k := by
  by_contra hn
  have : (gridPoint k : ℝ) ≤ gridPoint m := by exact_mod_cast gridPoint_strictMono.monotone (Nat.le_of_not_lt hn)
  linarith [h.lower]

/-- Rounding toward zero: the lower neighbour, or the largest finite datum. -/
theorem toward (h : Between y m p) {k : Nat} (hk : k < 255 * 2 ^ 23) (hy : (gridPoint k : ℝ) ≤ y) :
    (gridPoint (min m (255 * 2 ^ 23 - 1)) : ℝ) ≤ y ∧
      (gridPoint k : ℝ) ≤ gridPoint (min m (255 * 2 ^ 23 - 1)) := by
  have h1 : gridPoint (min m (255 * 2 ^ 23 - 1)) ≤ gridPoint m := gridPoint_strictMono.monotone (min_le_left ..)
  have h2 : gridPoint k ≤ gridPoint (min m (255 * 2 ^ 23 - 1)) :=
    gridPoint_strictMono.monotone (le_min (h.le_of_le hy) (by omega))
  exact ⟨le_trans (by exact_mod_cast h1) h.lower, by exact_mod_cast h2⟩

/-- Rounding away from zero: the exact value's own point, or the upper neighbour. -/
theorem away (h : Between y m p) {c : Nat} (hc : c = if p = .exact then m else m + 1) :
    y ≤ gridPoint c ∧ ∀ k : Nat, y ≤ gridPoint k → c ≤ k := by
  split at hc <;> rename_i hp <;> subst hc
  · exact ⟨(h.exact.1 hp).le, fun k hk => gridPoint_strictMono.le_iff_le.1 (by exact_mod_cast (h.exact.1 hp) ▸ hk)⟩
  · refine ⟨h.upper.le, fun k hk => ?_⟩
    rcases hk.lt_or_eq with h1 | h1
    · exact h.lt_of_lt h1
    · refine Nat.lt_of_le_of_ne ?_ ?_
      · by_contra hn
        have : (gridPoint k : ℝ) < gridPoint m := by exact_mod_cast gridPoint_strictMono (Nat.lt_of_not_le hn)
        linarith [h.lower]
      · rintro rfl
        exact hp (h.exact.2 h1)

/-- The two points where rounding to nearest may end. -/
theorem nearest (h : Between y m p) {c : Nat} (hc : c = m ∧ (p = .exact ∨ p = .below ∨ p = .half) ∨
      c = m + 1 ∧ (p = .half ∨ p = .above)) {d : ℝ} (hd : d ≤ gridPoint m ∨ (gridPoint (m + 1) : ℝ) ≤ d) :
    |(gridPoint c : ℝ) - y| ≤ |d - y| ∧
      (|(gridPoint c : ℝ) - y| = |d - y| → d = gridPoint c ∨ (p = .half ∧ (c = m + 1 → d = gridPoint m))) := by
  have hl := h.lower
  have hu := h.upper
  have hle : p ≠ .above → 2 * y ≤ gridPoint m + gridPoint (m + 1) := fun hp => not_lt.1 (hp ∘ h.above.2)
  have hge : p = .half ∨ p = .above → gridPoint m + gridPoint (m + 1) ≤ 2 * y := by
    rintro (hp | hp)
    · exact (h.half.1 hp).ge
    · exact (h.above.1 hp).le
  have hlt : p ≠ .half → 2 * y ≠ gridPoint m + gridPoint (m + 1) := fun hp => hp ∘ h.half.2
  rcases hc with ⟨rfl, hp⟩ | ⟨rfl, hp⟩
  · have hle := hle (by rcases hp with rfl | rfl | rfl <;> simp)
    rw [abs_of_nonpos (by linarith)]
    rcases hd with hd | hd
    · rw [abs_of_nonpos (by linarith)]
      exact ⟨by linarith, fun e => .inl (by linarith)⟩
    · rw [abs_of_nonneg (by linarith)]
      refine ⟨by linarith, fun e => ?_⟩
      by_cases hh : p = .half
      · exact .inr ⟨hh, by omega⟩
      · exact absurd (by linarith) (hlt hh)
  · have hge := hge hp
    rw [abs_of_nonneg (by linarith)]
    rcases hd with hd | hd
    · rw [abs_of_nonpos (by linarith)]
      refine ⟨by linarith, fun e => .inr ⟨?_, fun _ => by linarith⟩⟩
      by_contra hh
      exact hlt hh (by linarith)
    · rw [abs_of_nonneg (by linarith)]
      exact ⟨by linarith, fun e => .inl (by linarith)⟩

/-- Rounding to nearest reaches 2^277 units exactly from the middle of the last interval on. -/
theorem overflows (h : Between y m p) {c : Nat} (hc : c = m ∧ (p = .exact ∨ p = .below ∨ p = .half ∧ m % 2 = 0) ∨
      c = m + 1 ∧ (p = .half ∨ p = .above)) : 2 ^ 277 - 2 ^ 252 ≤ y ↔ 255 * 2 ^ 23 ≤ c := by
  have e1 : (2 : ℝ) ^ 277 = 2 ^ 25 * 2 ^ 252 := by rw [← pow_add]
  have e2 : (2 : ℝ) ^ 253 = 2 * 2 ^ 252 := by rw [pow_succ]; ring
  have hM : ((gridPoint (255 * 2 ^ 23 - 1) : Nat) : ℝ) = 2 ^ 277 - 2 ^ 253 := by
    rw [gridPoint_largest, Nat.cast_sub (Nat.pow_le_pow_right (by decide) (by decide)), Nat.cast_pow, Nat.cast_pow]; rfl
  have hI : ((gridPoint (255 * 2 ^ 23) : Nat) : ℝ) = 2 ^ 277 := by rw [gridPoint_infinity, Nat.cast_pow]; rfl
  have hu0 : (0 : ℝ) < 2 ^ 252 := by positivity
  rw [e1, e2] at hM
  rw [e1] at hI ⊢
  generalize (2 : ℝ) ^ 252 = u at hM hI hu0 ⊢
  have hl := h.lower
  have hu := h.upper
  rcases Nat.lt_trichotomy m (255 * 2 ^ 23 - 1) with hm | hm | hm
  · have : (gridPoint (m + 1) : ℝ) ≤ gridPoint (255 * 2 ^ 23 - 1) :=
      Nat.cast_le.2 (gridPoint_strictMono.monotone (by omega))
    exact ⟨fun hy => by linarith, fun h => by omega⟩
  · have h1 : (gridPoint m : ℝ) = 2 ^ 25 * u - 2 * u := hm ▸ hM
    have h2 : (gridPoint (m + 1) : ℝ) = 2 ^ 25 * u := by
      rw [show m + 1 = 255 * 2 ^ 23 by omega]; exact hI
    have h3 := h.above
    have h4 := h.half
    rw [h1, h2] at h3 h4
    constructor
    · intro hy
      have : p = .half ∨ p = .above := by
        rcases hy.lt_or_eq with hy | hy
        · exact .inr (h3.2 (by linarith))
        · exact .inl (h4.2 (by linarith))
      rcases hc with ⟨rfl, hp⟩ | ⟨rfl, -⟩
      · exfalso
        rcases this with rfl | rfl <;> simp at hp
        omega
      · omega
    · intro hc'
      rcases hc with ⟨rfl, -⟩ | ⟨rfl, hp | hp⟩
      · omega
      · linarith [h4.1 hp]
      · linarith [h3.1 hp]
  · have : (gridPoint (255 * 2 ^ 23) : ℝ) ≤ gridPoint m := Nat.cast_le.2 (gridPoint_strictMono.monotone (by omega))
    exact ⟨fun _ => by rcases hc with ⟨rfl, -⟩ | ⟨rfl, -⟩ <;> omega, fun _ => by linarith⟩

end Between

/-! ## One rounding (R386) -/

theorem overflowResult_toward {rm : Rounding} {neg : Bool}
    (h : rm = .rtz ∨ (rm = .rdn ∧ neg = false) ∨ (rm = .rup ∧ neg = true)) :
    overflowResult rm neg = withSign neg (BitVec.ofNat 32 (255 * 2 ^ 23 - 1)) := by
  rcases h with rfl | ⟨rfl, rfl⟩ | ⟨rfl, rfl⟩ <;> rfl

theorem overflowResult_away {rm : Rounding} {neg : Bool}
    (h : rm = .rne ∨ rm = .rmm ∨ (rm = .rdn ∧ neg = true) ∨ (rm = .rup ∧ neg = false)) :
    overflowResult rm neg = infOf neg := by
  rcases h with rfl | rfl | ⟨rfl, rfl⟩ | ⟨rfl, rfl⟩ <;> rfl

/-- An exact value of `y` units, with its sign. -/
noncomputable def exactOf (neg : Bool) (y : ℝ) : ℝ := (if neg then -1 else 1) * y / 2 ^ 149

theorem abs_exactOf (neg : Bool) {y : ℝ} (hy : 0 < y) : |exactOf neg y| = y / 2 ^ 149 := by
  unfold exactOf
  rw [abs_div, abs_mul, abs_of_pos hy]
  cases neg <;> simp

theorem abs_exactOf_natCast (neg : Bool) (n : Nat) : |exactOf neg n| = (n : ℝ) / 2 ^ 149 := by
  rcases Nat.eq_zero_or_pos n with rfl | hn
  · simp [exactOf]
  · exact abs_exactOf neg (Nat.cast_pos.2 hn)

theorem exactOf_neg_iff (neg : Bool) {y : ℝ} (hy : 0 < y) : exactOf neg y < 0 ↔ neg = true := by
  have : 0 < y / 2 ^ 149 := by positivity
  cases neg
  · simp only [exactOf, Bool.false_eq_true, if_false, one_mul, iff_false, not_lt]; exact this.le
  · simp only [exactOf, if_true, neg_one_mul, neg_div, iff_true]; linarith

theorem datum_exactOf (v : Word) : (datum v : ℝ) = exactOf (v.getLsbD 31) (gridPoint (v.toNat % 2 ^ 31)) := by
  rw [datum_eq_grid]
  unfold exactOf
  push_cast
  cases v.getLsbD 31 <;> simp

theorem datum_withSign_exactOf (neg : Bool) {m : Nat} (h : m < 2 ^ 31) :
    (datum (withSign neg (BitVec.ofNat 32 m)) : ℝ) = exactOf neg (gridPoint m) := by
  rw [datum_exactOf, withSign_bit31 neg h, withSign_low neg h]

theorem abs_datum_real (v : Word) : |(datum v : ℝ)| = (gridPoint (v.toNat % 2 ^ 31) : ℝ) / 2 ^ 149 := by
  rw [← magnitude_eq, ← Rat.cast_abs, abs_datum]; push_cast; rfl

theorem exactOf_le (neg : Bool) (x y : ℝ) : exactOf neg x ≤ exactOf neg y ↔ if neg then y ≤ x else x ≤ y := by
  unfold exactOf
  rw [div_le_div_iff_of_pos_right (by positivity)]
  cases neg <;> simp

theorem exactOf_injective (neg : Bool) {x y : ℝ} : exactOf neg x = exactOf neg y ↔ x = y := by
  unfold exactOf
  rw [div_left_inj' (by positivity)]
  cases neg <;> simp

theorem exists_exactOf (neg : Bool) (d : Word) : ∃ x : ℝ, (datum d : ℝ) = exactOf neg x := by
  refine ⟨(if neg then -1 else 1) * (datum d : ℝ) * 2 ^ 149, ?_⟩
  unfold exactOf
  have : (2 : ℝ) ^ 149 ≠ 0 := by positivity
  cases neg <;> field_simp <;> simp

theorem exactOf_sub (neg : Bool) (x y : ℝ) : |exactOf neg x - exactOf neg y| = |x - y| / 2 ^ 149 := by
  unfold exactOf
  rw [← sub_div, abs_div, ← mul_sub, abs_mul]
  cases neg <;> simp

/-- A datum of the other sign lies beyond zero. -/
theorem datum_other_sign {neg : Bool} {d : Word} (h : d.getLsbD 31 ≠ neg) : ∃ x : ℝ, x ≤ 0 ∧ (datum d : ℝ) = exactOf neg x := by
  refine ⟨-(gridPoint (d.toNat % 2 ^ 31) : ℝ), by simp, ?_⟩
  rw [datum_exactOf]
  unfold exactOf
  revert h
  cases neg <;> cases d.getLsbD 31 <;> simp

/-- Every datum in the sign of the exact value: at or below the lower neighbour, or at or above the upper one. -/
theorem datum_side (neg : Bool) (m : Nat) (d : Word) : ∃ x : ℝ, (datum d : ℝ) = exactOf neg x ∧
    (x ≤ gridPoint m ∨ (gridPoint (m + 1) : ℝ) ≤ x) := by
  by_cases h : d.getLsbD 31 = neg
  · refine ⟨gridPoint (d.toNat % 2 ^ 31), by rw [datum_exactOf, h], ?_⟩
    rcases Nat.lt_or_ge m (d.toNat % 2 ^ 31) with hk | hk
    · exact .inr (Nat.cast_le.2 (gridPoint_strictMono.monotone hk))
    · exact .inl (Nat.cast_le.2 (gridPoint_strictMono.monotone hk))
  · obtain ⟨x, hx, hd⟩ := datum_other_sign h
    exact ⟨x, hd, .inl (hx.trans (by positivity))⟩

namespace Between
variable {y : ℝ} {m : Nat} {p : Position}

/-- The code rounding toward zero selects. -/
def towardCode (m : Nat) : Nat := min m (255 * 2 ^ 23 - 1)

theorem toward_le (h : Between y m p) : (gridPoint (towardCode m) : ℝ) ≤ y :=
  (h.toward (k := 0) (by decide) (by simpa [gridPoint] using h.pos.le)).1

theorem truncation (h : Between y m p) (neg : Bool) :
    isTruncationOf (exactOf neg y) (withSign neg (BitVec.ofNat 32 (towardCode m))) := by
  have hr : towardCode m < 255 * 2 ^ 23 := by unfold towardCode; omega
  have hv := datum_withSign_exactOf neg (m := towardCode m) (by omega)
  refine ⟨isFinite_withSign neg hr, ?_, fun d hd hle => ?_⟩
  · rw [hv, abs_exactOf neg h.pos, abs_exactOf_natCast]
    exact div_le_div_of_nonneg_right h.toward_le (by positivity)
  · rw [abs_exactOf neg h.pos, abs_datum_real, div_le_div_iff_of_pos_right (by positivity)] at hle
    have : (|datum d| : ℝ) ≤ |(datum (withSign neg (BitVec.ofNat 32 (towardCode m))) : ℝ)| := by
      rw [abs_datum_real, hv, abs_exactOf_natCast]
      exact div_le_div_of_nonneg_right (h.toward ((isFinite_iff d).1 hd) hle).2 (by positivity)
    exact_mod_cast this

/-- A finite datum not beyond the exact value is not beyond the code that rounding toward zero selects. -/
theorem toward_greatest (h : Between y m p) {neg : Bool} {d : Word} (hd : isFinite d) {x : ℝ}
    (hx : (datum d : ℝ) = exactOf neg x) (hle : x ≤ y) : x ≤ gridPoint (towardCode m) := by
  by_cases hs : d.getLsbD 31 = neg
  · have : x = gridPoint (d.toNat % 2 ^ 31) := by
      have := (exactOf_injective neg).1 ((hx.symm.trans (datum_exactOf d)).trans (by rw [hs]))
      exact this
    subst this
    exact (h.toward ((isFinite_iff d).1 hd) hle).2
  · obtain ⟨z, hz, hdz⟩ := datum_other_sign hs
    have : x = z := (exactOf_injective neg).1 (hx.symm.trans hdz)
    rw [this]
    exact hz.trans (by positivity)

theorem floor_pos (h : Between y m p) : isFloorOf (exactOf false y) (withSign false (BitVec.ofNat 32 (towardCode m))) := by
  have hr : towardCode m < 255 * 2 ^ 23 := by unfold towardCode; omega
  have hv := datum_withSign_exactOf false (m := towardCode m) (by omega)
  refine .inl ⟨isFinite_withSign false hr, ?_, fun d hd hle => ?_⟩
  · rw [hv, exactOf_le]; exact h.toward_le
  · obtain ⟨x, hx⟩ := exists_exactOf false d
    rw [hx, exactOf_le] at hle
    have := h.toward_greatest hd hx hle
    have : (datum d : ℝ) ≤ datum (withSign false (BitVec.ofNat 32 (towardCode m))) := by
      rw [hx, hv, exactOf_le]; exact this
    exact_mod_cast this

theorem ceil_neg (h : Between y m p) : isCeilOf (exactOf true y) (withSign true (BitVec.ofNat 32 (towardCode m))) := by
  have hr : towardCode m < 255 * 2 ^ 23 := by unfold towardCode; omega
  have hv := datum_withSign_exactOf true (m := towardCode m) (by omega)
  refine .inl ⟨isFinite_withSign true hr, ?_, fun d hd hle => ?_⟩
  · rw [hv, exactOf_le]; exact h.toward_le
  · obtain ⟨x, hx⟩ := exists_exactOf true d
    rw [hx, exactOf_le] at hle
    have := h.toward_greatest hd hx hle
    have : (datum (withSign true (BitVec.ofNat 32 (towardCode m))) : ℝ) ≤ datum d := by
      rw [hx, hv, exactOf_le]; exact this
    exact_mod_cast this

/-- A finite datum beyond the exact value is not short of the code that rounding away selects. -/
theorem away_least (h : Between y m p) {c : Nat} (hc : c = if p = .exact then m else m + 1) {neg : Bool} {d : Word}
    {x : ℝ} (hx : (datum d : ℝ) = exactOf neg x) (hle : y ≤ x) :
    c ≤ d.toNat % 2 ^ 31 ∧ (gridPoint c : ℝ) ≤ x := by
  by_cases hs : d.getLsbD 31 = neg
  · have : x = gridPoint (d.toNat % 2 ^ 31) :=
      (exactOf_injective neg).1 ((hx.symm.trans (datum_exactOf d)).trans (by rw [hs]))
    subst this
    have := (h.away hc).2 _ hle
    exact ⟨this, Nat.cast_le.2 (gridPoint_strictMono.monotone this)⟩
  · obtain ⟨z, hz, hdz⟩ := datum_other_sign hs
    have : x = z := (exactOf_injective neg).1 (hx.symm.trans hdz)
    linarith [h.pos]

theorem ceil_pos (h : Between y m p) {c : Nat} (hc : c = if p = .exact then m else m + 1) :
    isCeilOf (exactOf false y) (if 255 * 2 ^ 23 ≤ c then infOf false else withSign false (BitVec.ofNat 32 c)) := by
  split <;> rename_i hr
  · refine .inr ⟨rfl, fun d hd => ?_⟩
    obtain ⟨x, hx⟩ := exists_exactOf false d
    by_contra hn
    rw [hx, not_lt, exactOf_le] at hn
    have := (h.away_least hc hx hn).1
    exact absurd ((isFinite_iff d).1 hd) (by omega)
  · have hv := datum_withSign_exactOf false (m := c) (by omega)
    refine .inl ⟨isFinite_withSign false (by omega), ?_, fun d hd hle => ?_⟩
    · rw [hv, exactOf_le]; exact (h.away hc).1
    · obtain ⟨x, hx⟩ := exists_exactOf false d
      rw [hx, exactOf_le] at hle
      have := (h.away_least hc hx hle).2
      have : (datum (withSign false (BitVec.ofNat 32 c)) : ℝ) ≤ datum d := by
        rw [hx, hv, exactOf_le]; exact this
      exact_mod_cast this

theorem floor_neg (h : Between y m p) {c : Nat} (hc : c = if p = .exact then m else m + 1) :
    isFloorOf (exactOf true y) (if 255 * 2 ^ 23 ≤ c then infOf true else withSign true (BitVec.ofNat 32 c)) := by
  split <;> rename_i hr
  · refine .inr ⟨rfl, fun d hd => ?_⟩
    obtain ⟨x, hx⟩ := exists_exactOf true d
    by_contra hn
    rw [hx, not_lt, exactOf_le] at hn
    have := (h.away_least hc hx hn).1
    exact absurd ((isFinite_iff d).1 hd) (by omega)
  · have hv := datum_withSign_exactOf true (m := c) (by omega)
    refine .inl ⟨isFinite_withSign true (by omega), ?_, fun d hd hle => ?_⟩
    · rw [hv, exactOf_le]; exact (h.away hc).1
    · obtain ⟨x, hx⟩ := exists_exactOf true d
      rw [hx, exactOf_le] at hle
      have := (h.away_least hc hx hle).2
      have : (datum d : ℝ) ≤ datum (withSign true (BitVec.ofNat 32 c)) := by
        rw [hx, hv, exactOf_le]; exact this
      exact_mod_cast this

theorem nearestTo (h : Between y m p) (neg : Bool) {c : Nat} (wins : Word → Word → Prop)
    (hc : c = m ∧ (p = .exact ∨ p = .below ∨ p = .half ∧ m % 2 = 0) ∨ c = m + 1 ∧ (p = .half ∨ p = .above))
    (hw : c < 255 * 2 ^ 23 → ∀ d, p = .half → (c = m + 1 → (datum d : ℝ) = exactOf neg (gridPoint m)) →
      wins (withSign neg (BitVec.ofNat 32 c)) d) :
    isNearestTo wins (exactOf neg y)
      (if 255 * 2 ^ 23 ≤ c then infOf neg else withSign neg (BitVec.ofNat 32 c)) := by
  have hov := h.overflows hc
  have hX : (2 ^ 128 - 2 ^ 103 ≤ |exactOf neg y|) ↔ 255 * 2 ^ 23 ≤ c := by
    rw [← hov, abs_exactOf neg h.pos, le_div_iff₀ (by positivity), sub_mul, ← pow_add, ← pow_add]
  refine ⟨fun hy => ?_, fun hy => ?_⟩
  · rw [if_pos (hX.1 hy)]; cases neg <;> simp
  · have hr : ¬255 * 2 ^ 23 ≤ c := fun hn => absurd (hX.2 hn) (not_le.2 hy)
    rw [if_neg hr]
    have hv := datum_withSign_exactOf neg (m := c) (by omega)
    refine ⟨isFinite_withSign neg (by omega), fun d _ => ?_⟩
    obtain ⟨x, hx, hs⟩ := datum_side neg m d
    have hn := h.nearest (hc.imp (And.imp_right (Or.imp_right (Or.imp_right And.left))) id) hs
    rw [hv, hx, exactOf_sub, exactOf_sub]
    refine ⟨div_le_div_of_nonneg_right hn.1 (by positivity), fun he => ?_⟩
    rw [div_left_inj' (by positivity)] at he
    rcases hn.2 he with e | ⟨hp, e⟩
    · left
      have : (datum d : ℝ) = datum (withSign neg (BitVec.ofNat 32 c)) := by rw [hx, hv, e]
      exact_mod_cast this
    · exact .inr (hw (by omega) d hp fun h1 => by rw [hx, e h1])

end Between

/-- `assemble` rounds: the exact value `±y` units becomes the datum that R386 selects. -/
theorem assemble_roundsTo {y : ℝ} {q e : Nat} {p : Position} (rm : Rounding) (neg : Bool) (hy : 0 < y)
    (h : liesAt y q e p) (hq : q < 2 ^ 24) (he : 2 ^ 23 ≤ q ∨ e = 0) :
    roundsTo rm (exactOf neg y) (assemble rm neg q e p) := by
  have B := Between.of_liesAt hy h hq he
  have hpar : (e * 2 ^ 23 + q) % 2 = q % 2 := by omega
  generalize hm : e * 2 ^ 23 + q = m at B hpar
  have hc : roundedCode rm neg q e p = if roundsAway rm neg q p then m + 1 else m := by
    unfold roundedCode roundedMagnitude; split <;> omega
  rw [assemble_eq rm neg p hq he, hc]
  clear hc
  have sign : ∀ c, (if 255 * 2 ^ 23 ≤ c then overflowResult rm neg else withSign neg (BitVec.ofNat 32 c)).getLsbD 31 =
      neg := by
    intro c
    split
    · cases rm <;> cases neg <;> rfl
    · exact withSign_bit31 neg (by omega)
  have toward : rm = .rtz ∨ (rm = .rdn ∧ neg = false) ∨ (rm = .rup ∧ neg = true) →
      (if 255 * 2 ^ 23 ≤ m then overflowResult rm neg else withSign neg (BitVec.ofNat 32 m)) =
        withSign neg (BitVec.ofNat 32 (Between.towardCode m)) := by
    intro h
    rw [overflowResult_toward h]
    unfold Between.towardCode
    split
    · rw [min_eq_right (by omega)]
    · rw [min_eq_left (by omega)]
  refine ⟨(sign _).symm ▸ (exactOf_neg_iff neg hy).symm, ?_⟩
  clear sign
  generalize hc : (if roundsAway rm neg q p = true then m + 1 else m) = c
  cases rm <;> dsimp only
  case rtz =>
    obtain rfl : m = c := by rw [← hc]; cases p <;> rfl
    rw [toward (.inl rfl)]
    exact B.truncation neg
  case rdn =>
    cases neg
    · obtain rfl : m = c := by rw [← hc]; cases p <;> rfl
      rw [toward (.inr (.inl ⟨rfl, rfl⟩))]
      exact B.floor_pos
    · rw [overflowResult_away (by simp)]
      exact B.floor_neg (by rw [← hc]; cases p <;> rfl)
  case rup =>
    cases neg
    · rw [overflowResult_away (by simp)]
      exact B.ceil_pos (by rw [← hc]; cases p <;> rfl)
    · obtain rfl : m = c := by rw [← hc]; cases p <;> rfl
      rw [toward (.inr (.inr ⟨rfl, rfl⟩))]
      exact B.ceil_neg
  case rne =>
    rw [overflowResult_away (.inl rfl)]
    refine B.nearestTo neg _ ?_ fun _ d hp _ => ?_
    · cases p
      · exact .inl ⟨hc.symm, .inl rfl⟩
      · exact .inl ⟨hc.symm, .inr (.inl rfl)⟩
      · by_cases hodd : q % 2 = 1
        · exact .inr ⟨by simp [← hc, roundsAway, hodd], .inl rfl⟩
        · exact .inl ⟨by simp [← hc, roundsAway, hodd], .inr (.inr ⟨rfl, by omega⟩)⟩
      · exact .inr ⟨hc.symm, .inr rfl⟩
    · subst hp
      rw [withSign_bit0, ← hc, decide_eq_false_iff_not]
      by_cases hodd : q % 2 = 1
      · simp only [roundsAway, hodd, beq_self_eq_true, if_true]; omega
      · simp only [roundsAway, hodd, beq_iff_eq, if_false]; omega
  case rmm =>
    rw [overflowResult_away (.inr (.inl rfl))]
    refine B.nearestTo neg _ ?_ fun hf d hp hd => ?_
    · cases p
      · exact .inl ⟨hc.symm, .inl rfl⟩
      · exact .inl ⟨hc.symm, .inr (.inl rfl)⟩
      · exact .inr ⟨hc.symm, .inl rfl⟩
      · exact .inr ⟨hc.symm, .inr rfl⟩
    · subst hp
      obtain rfl : m + 1 = c := hc
      have : (|datum d| : ℝ) < |(datum (withSign neg (BitVec.ofNat 32 (m + 1))) : ℝ)| := by
        rw [hd rfl, datum_withSign_exactOf neg (by omega), abs_exactOf_natCast, abs_exactOf_natCast]
        exact div_lt_div_of_pos_right (Nat.cast_lt.2 (gridPoint_strictMono (Nat.lt_succ_self m))) (by positivity)
      exact_mod_cast this

/-! ## Quotients and square roots -/

/-- Scaling a number by its own binary logarithm leaves 24 bits, or fewer at exponent 0. -/
theorem scale_bounds (n : Nat) : n / 2 ^ (Nat.log2 n - 23) < 2 ^ 24 ∧
    (2 ^ 23 ≤ n / 2 ^ (Nat.log2 n - 23) ∨ Nat.log2 n - 23 = 0) := by
  rcases Nat.eq_zero_or_pos n with rfl | hn
  · decide
  · have h1 : 2 ^ Nat.log2 n ≤ n := Nat.log2_self_le (by omega)
    have h2 : n < 2 ^ (Nat.log2 n + 1) := Nat.lt_log2_self
    generalize Nat.log2 n = l at *
    rcases Nat.lt_or_ge 23 l with hl | hl
    · have e1 : 2 ^ l = 2 ^ 23 * 2 ^ (l - 23) := by rw [← pow_add]; congr 1; omega
      have e2 : 2 ^ (l + 1) = 2 ^ 24 * 2 ^ (l - 23) := by rw [← pow_add]; congr 1; omega
      exact ⟨Nat.div_lt_of_lt_mul (by rw [mul_comm]; omega), .inl ((Nat.le_div_iff_mul_le (by positivity)).2 (by omega))⟩
    · have : l - 23 = 0 := by omega
      rw [this]
      refine ⟨?_, .inr rfl⟩
      have : 2 ^ (l + 1) ≤ 2 ^ 24 := Nat.pow_le_pow_right (by decide) (by omega)
      omega

theorem positionOf_liesAt {num den e : Nat} (hd : 0 < den) :
    liesAt ((num : ℝ) / den) (num / (den * 2 ^ e)) e (positionOf (num % (den * 2 ^ e)) (den * 2 ^ e)) := by
  have hden : (0 : ℝ) < den := Nat.cast_pos.2 hd
  have hpow : (0 : ℝ) < 2 ^ e := by positivity
  have hD : 0 < den * 2 ^ e := by positivity
  have hlt := Nat.mod_lt num hD
  have heq : (num : ℝ) = den * 2 ^ e * (num / (den * 2 ^ e) : Nat) + (num % (den * 2 ^ e) : Nat) := by
    have := congrArg (Nat.cast (R := ℝ)) (Nat.div_add_mod num (den * 2 ^ e))
    push_cast at this ⊢
    linarith
  generalize num / (den * 2 ^ e) = q at *
  generalize num % (den * 2 ^ e) = r at *
  have hlt' : (r : ℝ) < den * 2 ^ e := by exact_mod_cast hlt
  unfold positionOf
  split
  · rename_i h
    rw [h] at heq
    simp only [liesAt]
    rw [div_eq_iff hden.ne']; push_cast at heq; linarith
  · rename_i h0
    have h0' : (0 : ℝ) < r := Nat.cast_pos.2 (by omega)
    split
    · rename_i h
      have h' : (2 : ℝ) * r < den * 2 ^ e := by exact_mod_cast h
      simp only [liesAt]
      rw [lt_div_iff₀ hden, div_lt_iff₀ hden]
      constructor <;> nlinarith
    · split
      · rename_i h
        have h' : (2 : ℝ) * r = den * 2 ^ e := by exact_mod_cast h
        simp only [liesAt]
        rw [div_eq_iff hden.ne']; nlinarith
      · rename_i h1 h2
        have h' : den * 2 ^ e < (2 : ℝ) * r := by exact_mod_cast (by omega : den * 2 ^ e < 2 * r)
        simp only [liesAt]
        rw [lt_div_iff₀ hden, div_lt_iff₀ hden]
        constructor <;> nlinarith

/-- `roundRatio` rounds the nonzero number ±num/den units (R386). -/
theorem roundRatio_roundsTo (rm : Rounding) (neg : Bool) {num den : Nat} (hn : 0 < num) (hd : 0 < den) :
    roundsTo rm (exactOf neg ((num : ℝ) / den)) (roundRatio rm neg num den) := by
  have hb := scale_bounds (num / den)
  rw [Nat.div_div_eq_div_mul] at hb
  exact assemble_roundsTo rm neg (div_pos (Nat.cast_pos.2 hn) (Nat.cast_pos.2 hd)) (positionOf_liesAt hd) hb.1 hb.2

theorem intCast_sign_natAbs (x : ℤ) : (x : ℝ) = (if decide (x < 0) then -1 else 1) * (x.natAbs : ℝ) := by
  by_cases h : x < 0
  · simp only [h, decide_true, if_true]; rw [← Int.cast_natCast, Int.ofNat_natAbs_of_nonpos h.le]; push_cast; ring
  · simp only [h, decide_false, Bool.false_eq_true, if_false]
    rw [← Int.cast_natCast, Int.natAbs_of_nonneg (not_lt.1 h)]; ring

/-- `roundSum` rounds the nonzero number num/den units, whatever signs an exact zero would have looked at (R386). -/
theorem roundSum_roundsTo (rm : Rounding) (negA negB : Bool) {num : ℤ} {den : Nat} (h : num ≠ 0) (hd : 0 < den) :
    roundsTo rm ((num : ℝ) / den / 2 ^ 149) (roundSum rm negA negB num den) := by
  have e : exactOf (decide (num < 0)) ((num.natAbs : ℝ) / den) = (num : ℝ) / den / 2 ^ 149 := by
    unfold exactOf; rw [mul_div_assoc', ← intCast_sign_natAbs]
  unfold roundSum
  rw [if_neg h, ← e]
  exact roundRatio_roundsTo rm (decide (num < 0)) (by omega) hd

theorem isqrtFrom_spec : ∀ (k n r : Nat), r * r ≤ n → n < (r + 2 ^ k) * (r + 2 ^ k) →
    isqrtFrom k n r * isqrtFrom k n r ≤ n ∧ n < (isqrtFrom k n r + 1) * (isqrtFrom k n r + 1)
  | 0, _, _, h1, h2 => ⟨h1, h2⟩
  | k + 1, n, r, h1, h2 => by
    unfold isqrtFrom
    split
    · rename_i h
      refine isqrtFrom_spec k n _ h ?_
      rw [add_assoc, ← mul_two, ← pow_succ]; exact h2
    · rename_i h
      exact isqrtFrom_spec k n r h1 (by omega)

/-- `isqrt` is the integer square root of a number below 2^428. -/
theorem isqrt_eq {n : Nat} (h : n < 2 ^ 428) : isqrt n = Nat.sqrt n := by
  obtain ⟨h1, h2⟩ := isqrtFrom_spec 214 n 0 (by omega) (by rw [zero_add, ← pow_add]; exact h)
  exact Nat.eq_sqrt.2 ⟨h1, h2⟩

theorem sqrtPosition_liesAt {n q e : Nat} (hq : q * 2 ^ e ≤ Nat.sqrt n) (hq' : Nat.sqrt n < (q + 1) * 2 ^ e) :
    liesAt (Real.sqrt n) q e (sqrtPosition n q e) := by
  have h4 : (4 : Nat) ^ e = 2 ^ e * 2 ^ e := by rw [← mul_pow]; norm_num
  have low : (q * 2 ^ e) * (q * 2 ^ e) ≤ n := (Nat.mul_le_mul hq hq).trans (Nat.sqrt_le n)
  have high : n < ((q + 1) * 2 ^ e) * ((q + 1) * 2 ^ e) := Nat.sqrt_lt.1 hq'
  have hpow : (0 : ℝ) < 2 ^ e := by positivity
  have hq0 : (0 : ℝ) ≤ q := Nat.cast_nonneg q
  have hs : Real.sqrt n * Real.sqrt n = n := Real.mul_self_sqrt (Nat.cast_nonneg n)
  have hs0 : 0 ≤ Real.sqrt (n : ℝ) := Real.sqrt_nonneg _
  have hhalf : ((q : ℝ) + 1 / 2) * 2 ^ e * (((q : ℝ) + 1 / 2) * 2 ^ e) * 4 = (2 * q + 1) * (2 * q + 1) * (2 ^ e * 2 ^ e) := by
    ring
  have low' : ((q : ℝ) * 2 ^ e) * (q * 2 ^ e) ≤ n := by exact_mod_cast low
  have high' : (n : ℝ) < ((q + 1) * 2 ^ e) * ((q + 1) * 2 ^ e) := by exact_mod_cast high
  have lt_of_sq : ∀ {a b : ℝ}, 0 ≤ b → a * a < b * b → a < b := fun hb h => lt_of_mul_self_lt_mul_self₀ hb h
  unfold sqrtPosition
  rw [h4]
  split
  · rename_i h
    have h' : (q : ℝ) * 2 ^ e * (q * 2 ^ e) = n := by rw [← h]; push_cast; ring
    simp only [liesAt]
    rw [← h', Real.sqrt_mul_self (by positivity)]
  · rename_i h0
    have h0' : ((q : ℝ) * 2 ^ e) * (q * 2 ^ e) < n := by
      refine lt_of_le_of_ne low' fun h => h0 ?_
      have : (q * 2 ^ e) * (q * 2 ^ e) = n := by exact_mod_cast h
      rw [← this]; ring
    split
    · rename_i h
      have h' : (4 : ℝ) * n < (2 * q + 1) * (2 * q + 1) * (2 ^ e * 2 ^ e) := by exact_mod_cast h
      exact ⟨lt_of_sq hs0 (by rw [hs]; exact h0'), lt_of_sq (by positivity) (by rw [hs]; linarith)⟩
    · split
      · rename_i h
        have h' : (4 : ℝ) * n = (2 * q + 1) * (2 * q + 1) * (2 ^ e * 2 ^ e) := by exact_mod_cast h
        have : (n : ℝ) = ((q : ℝ) + 1 / 2) * 2 ^ e * (((q : ℝ) + 1 / 2) * 2 ^ e) := by linarith
        simp only [liesAt]
        rw [this, Real.sqrt_mul_self (by positivity)]
      · rename_i h1 h2
        have h' : (2 * q + 1) * (2 * q + 1) * (2 ^ e * 2 ^ e) < (4 : ℝ) * n := by
          exact_mod_cast (by omega : (2 * q + 1) * (2 * q + 1) * (2 ^ e * 2 ^ e) < 4 * n)
        exact ⟨lt_of_sq hs0 (by rw [hs]; linarith), lt_of_sq (by positivity) (by rw [hs]; exact high')⟩

/-- The rounding of a square root, given as the units squared (R366). -/
theorem assemble_sqrt_roundsTo (rm : Rounding) {n : Nat} (h0 : 0 < n) (h : n < 2 ^ 428) :
    roundsTo rm (exactOf false (Real.sqrt n))
      (assemble rm false (isqrt n / 2 ^ (Nat.log2 (isqrt n) - 23)) (Nat.log2 (isqrt n) - 23)
        (sqrtPosition n (isqrt n / 2 ^ (Nat.log2 (isqrt n) - 23)) (Nat.log2 (isqrt n) - 23))) := by
  have hb := scale_bounds (isqrt n)
  rw [isqrt_eq h] at hb ⊢
  refine assemble_roundsTo rm false (Real.sqrt_pos.2 (Nat.cast_pos.2 h0)) (sqrtPosition_liesAt ?_ ?_) hb.1 hb.2
  · exact Nat.div_mul_le_self _ _
  · have := Nat.lt_div_mul_add (a := Nat.sqrt n) (b := 2 ^ (Nat.log2 (Nat.sqrt n) - 23)) (by positivity)
    rw [add_mul, one_mul]; exact this

end Sys2Proof.Machine
end

