-- ==== Sys2Proof/Laws/Meanings.lean ====
section
/-! SUPPORT. One lemma for each branch of the operations the meanings share, so that a proof about an instruction cites
the branch it is in and does not unfold the operation. -/

namespace Sys2Proof.Machine

variable (s : State)

/-! ## Trap entry (R520) -/

theorem trapEntry_delegated {t : Trap} (v : Word) (h : trapToS t s = true) :
    trapEntry t v s =
      { enterS t v s with flags := { s.flags with isException := true, asy := trapIsInterrupt t } } := by
  simp [trapEntry, h, enterS]

theorem trapEntry_notDelegated {t : Trap} (v : Word) (h : trapToS t s = false) :
    trapEntry t v s =
      { enterM t v s with flags := { s.flags with isException := true, asy := trapIsInterrupt t } } := by
  simp [trapEntry, h, enterM]

/-- A trap raised in M-mode is never delegated (R520). -/
theorem trapToS_machine {t : Trap} (h : s.priv = .m) : trapToS t s = false := by
  simp [trapToS, h]

/-! ## Transfers of control (R258) -/

theorem transferTo_aligned {t : Word} (linked : State) (h : targetMisaligned t = false) :
    transferTo t linked s = { linked with pc := t } := by
  simp [transferTo, h]

theorem transferTo_misaligned {t : Word} (linked : State) (h : targetMisaligned t = true) :
    transferTo t linked s = raise .instrAddrMisaligned t s := by
  simp [transferTo, h]

theorem branch_notTaken (t : Word) : branch false t s = (s.setBranchFlags false).advancePc := rfl

theorem branch_taken_aligned {t : Word} (h : targetMisaligned t = false) :
    branch true t s = { s.setBranchFlags true with pc := t } := by
  simp [branch, transferTo_aligned _ _ h]

theorem branch_taken_misaligned {t : Word} (h : targetMisaligned t = true) :
    branch true t s = raise .instrAddrMisaligned t (s.setBranchFlags true) := by
  simp [branch, transferTo_misaligned _ _ h]

/-! ## Memory instructions (R278, R279, R300, R301) -/

theorem loadBody_ok {va v : Word} {rd : Reg} (h : loadFault s = none) : loadBody va rd v s = s.writeRd rd v := by
  simp [loadBody, h]

theorem loadBody_fault {va v : Word} {rd : Reg} {e : Exc} (h : loadFault s = some e) :
    loadBody va rd v s = raise e va s := by
  simp [loadBody, h]

theorem storeBody_ok {va v : Word} {n : Nat} (h : storeFault s = none) :
    storeBody va n v s =
      (s.fillLatch s.memop.paddr (laneData n v s.memop.paddr) (laneStrobe n s.memop.paddr)).advancePc := by
  simp [storeBody, h]

theorem storeBody_fault {va v : Word} {n : Nat} {e : Exc} (h : storeFault s = some e) :
    storeBody va n v s = raise e va s := by
  simp [storeBody, h]

theorem lrBody_ok {rd rs1 : Reg} (h : loadFault s = none) :
    lrBody rd rs1 s = { s with res := { valid := true, addr := s.memop.paddr } }.writeRd rd (operandWord s) := by
  simp [lrBody, h]

theorem lrBody_fault {rd rs1 : Reg} {e : Exc} (h : loadFault s = some e) :
    lrBody rd rs1 s = raise e (s.reg rs1) s := by
  simp [lrBody, h]

theorem scBody_success {rd rs1 rs2 : Reg} (h : storeFault s = none) (ok : scSucceeds s = true) :
    scBody rd rs1 rs2 s =
      ({ s with res.valid := false }.fillLatch s.memop.paddr (s.reg rs2) 0b1111#4).writeRd rd 0#32 := by
  simp [scBody, h, ok]

theorem scBody_failure {rd rs1 rs2 : Reg} (h : storeFault s = none) (ok : scSucceeds s = false) :
    scBody rd rs1 rs2 s = { s with res.valid := false }.writeRd rd 1#32 := by
  simp [scBody, h, ok]

theorem scBody_fault {rd rs1 rs2 : Reg} {e : Exc} (h : storeFault s = some e) :
    scBody rd rs1 rs2 s = raise e (s.reg rs1) s := by
  simp [scBody, h]

theorem amoBody_ok {f : Word → Word → Word} {rd rs1 rs2 : Reg} (h : storeFault s = none) :
    amoBody f rd rs1 rs2 s =
      (s.fillLatch s.memop.paddr (f (operandWord s) (s.reg rs2)) 0b1111#4).writeRd rd (operandWord s) := by
  simp [amoBody, h]

theorem amoBody_fault {f : Word → Word → Word} {rd rs1 rs2 : Reg} {e : Exc} (h : storeFault s = some e) :
    amoBody f rd rs1 rs2 s = raise e (s.reg rs1) s := by
  simp [amoBody, h]

theorem amoCommit_clear (h : s.latch.store = false) : amoCommit s = .next s := by
  simp [amoCommit, h]

theorem amoCommit_write (h : s.latch.store = true)
    (hw : s.slave.writeErr.contains (wordAddress s.latch.addr) = false) :
    amoCommit s = .next (busWrite s.latch.addr s.latch.data s.latch.strb s).2 := by
  have e : (busWrite s.latch.addr s.latch.data s.latch.strb s).1 = false := by rw [busWrite_err, hw]
  unfold amoCommit
  rw [if_pos h]
  split <;> simp_all

theorem amoCommit_error (h : s.latch.store = true)
    (hw : s.slave.writeErr.contains (wordAddress s.latch.addr) = true) :
    amoCommit s = .fault .amoWriteBusError := by
  have e : (busWrite s.latch.addr s.latch.data s.latch.strb s).1 = true := by rw [busWrite_err, hw]
  unfold amoCommit
  rw [if_pos h]
  split <;> simp_all

/-! ## CSRs (R32-R34, R327) -/

/-- A CSR read changes at most the count of draws (R33). -/
theorem csrRead_frame (c : Csr) : { (csrRead c s).2 with draws := s.draws } = s := by
  cases c <;> rfl

/-- A CSR write changes at most the CSRs and, for `satp`, the PTW cache (R34). -/
theorem csrWrite_frame (c : Csr) (v : Word) : { csrWrite c v s with csr := s.csr, ptw := s.ptw } = s := by
  cases c <;> rfl

theorem csrOp_illegal {n : BitVec 12} {rd : Reg} {w : Bool} {new : Word → Word} (h : csrAccess n w s.priv = none) :
    csrOp n rd w new s = raiseIllegal s := by
  simp [csrOp, h]

theorem csrOp_legal {n : BitVec 12} {rd : Reg} {w : Bool} {new : Word → Word} {c : Csr}
    (h : csrAccess n w s.priv = some c) :
    csrOp n rd w new s =
      { (if w then csrWrite c (new (csrRead c s).1) (csrRead c s).2 else (csrRead c s).2).writeRd rd (csrRead c s).1
        with flags.isCsr := true } := by
  simp [csrOp, h]

/-! ## Rounding modes (R361) -/

theorem withRounding_legal {rm : BitVec 3} {rd : Reg} {f : Rounding → Word} {r : Rounding}
    (h : roundingMode rm = some r) : withRounding rm rd f s = s.writeRd rd (f r) := by
  simp [withRounding, h]

theorem withRounding_reserved {rm : BitVec 3} {rd : Reg} {f : Rounding → Word} (h : roundingMode rm = none) :
    withRounding rm rd f s = raiseUndecodable s := by
  simp [withRounding, h]

/-- The reserved values are 101 and 110, and no other (R361). -/
theorem roundingMode_none_iff (rm : BitVec 3) : roundingMode rm = none ↔ legalRm rm = false := by
  revert rm; decide

/-! ## Data faults (R505) -/

theorem loadFault_none (h1 : s.flags.accessFaultLoad = false) (h2 : s.flags.pageFaultLoad = false) :
    loadFault s = none := by
  simp [loadFault, h1, h2]

theorem storeFault_none (h1 : s.flags.accessFaultStore = false) (h2 : s.flags.pageFaultStore = false) :
    storeFault s = none := by
  simp [storeFault, h1, h2]

end Sys2Proof.Machine
end

