-- ==== Sys2Proof/Laws/Pass.lean ====
section
/-! SUPPORT. What an instruction without a data access can touch, what taking an exception leaves, and what the parts of
one pass (fetch, decision, retirement) do, each said once. -/

namespace Sys2Proof.Machine

/-! ## Bits of `mstatus` -/

theorem getLsbD_setBit (w : Word) (n k : Nat) (b : Bool) (hn : n < 32) :
    (setBit w n b).getLsbD k = if k = n then b else w.getLsbD k := by
  unfold setBit
  by_cases hk : k = n
  · subst hk; cases b <;> simp [hn]
  · rw [if_neg hk]
    cases b <;> simp only [if_true, Bool.false_eq_true, if_false, BitVec.getLsbD_or, BitVec.getLsbD_and,
      BitVec.getLsbD_not, BitVec.getLsbD_shiftLeft]
    · by_cases h2 : k < 32
      · by_cases h : k < n
        · simp [h, h2]
        · have : k - n ≠ 0 := by omega
          simp [h, h2, this, BitVec.getLsbD_one]
      · simp [BitVec.getLsbD_of_ge w k (by omega)]
    · by_cases h : k < n
      · simp [h]
      · have : k - n ≠ 0 := by omega
        simp [this, BitVec.getLsbD_one]

theorem getLsbD_three {j : Nat} (h : 2 ≤ j) : (3#32).getLsbD j = false := by
  by_cases hj : j < 32
  · interval_cases j <;> rfl
  · exact BitVec.getLsbD_of_ge _ _ (by omega)

theorem getLsbD_setMpp (w : Word) (p : BitVec 2) (k : Nat) :
    (setMpp w p).getLsbD k = if k = 11 then p.getLsbD 0 else if k = 12 then p.getLsbD 1 else w.getLsbD k := by
  by_cases hk : k < 32
  · unfold setMpp
    simp only [BitVec.getLsbD_or, BitVec.getLsbD_and, BitVec.getLsbD_not, BitVec.getLsbD_shiftLeft,
      BitVec.getLsbD_setWidth]
    by_cases h1 : k = 11
    · subst h1; simp
    by_cases h2 : k = 12
    · subst h2; simp
    by_cases h3 : k < 11
    · simp [h1, h2, h3, hk]
    · have h4 : 2 ≤ k - 11 := by omega
      simp [h1, h2, h3, hk, getLsbD_three h4, BitVec.getLsbD_of_ge p _ h4]
  · rw [if_neg (by omega), if_neg (by omega), BitVec.getLsbD_of_ge _ _ (by omega),
      BitVec.getLsbD_of_ge _ _ (by omega)]

/-! ## Taking an exception (R520-R523) -/

section Raise
variable {s d : State} (e : Exc) (v : Word)

/-- An exception raised in a state with the pc, mode and CSRs of `s` was taken from `s`. -/
theorem raise_tookException (h1 : d.pc = s.pc) (h2 : d.priv = s.priv) (h3 : d.csr = s.csr) :
    s.tookException (raise e v d) e v := by
  unfold State.tookException raise
  have hb : BitVec.ofNat 32 (excCode e) = trapCauseValue (.exc e) := by
    simp [trapCauseValue, trapIsInterrupt, trapCode]
  by_cases hd : s.priv ≠ .m ∧ s.csr.medeleg.getLsbD (excCode e) = true
  · rw [if_pos hd, trapEntry_delegated _ _ (by simp [trapToS, trapIsInterrupt, trapCode, h2, h3, hd])]
    simp [enterS, h1, h2, h3, hb, trapVector, trapIsInterrupt]
  · rw [if_neg hd, trapEntry_notDelegated _ _ (by
      simp only [trapToS, trapIsInterrupt, trapCode, h2, h3, Bool.and_eq_false_iff, bne_eq_false_iff_eq]
      by_cases hp : s.priv = .m
      · exact .inl hp
      · right; simpa [hp] using hd)]
    simp [enterM, h1, h2, h3, hb, trapVector, trapIsInterrupt]

theorem raise_sameButTrap : d.sameButTrap (raise e v d) := by
  unfold State.sameButTrap raise
  cases h : trapToS (.exc e) d
  · rw [trapEntry_notDelegated _ _ h]; rfl
  · rw [trapEntry_delegated _ _ h]; rfl

end Raise

/-! ## An instruction without a data access -/

/-- Everything such an instruction has no access to: stage, fetched word, latch, reservation, both memories, bus view,
counters, status record. -/
structure State.sameMachine (s t : State) : Prop where
  stage : t.stage = s.stage
  instWord : t.instWord = s.instWord
  latch : t.latch = s.latch
  slave : t.slave = s.slave
  mirror : t.mirror = s.mirror
  uartOut : t.uartOut = s.uartOut
  res : t.res = s.res
  bus : t.bus = s.bus
  memop : t.memop = s.memop
  fetchPaddr : t.fetchPaddr = s.fetchPaddr
  ctl : t.ctl = s.ctl
  status : t.status = s.status
  cfg : t.cfg = s.cfg

namespace State.sameMachine
variable {s t u : State}

theorem refl : s.sameMachine s := by constructor <;> rfl

theorem trans (h : s.sameMachine t) (h' : t.sameMachine u) : s.sameMachine u :=
  ⟨h'.1.trans h.1, h'.2.trans h.2, h'.3.trans h.3, h'.4.trans h.4, h'.5.trans h.5, h'.6.trans h.6, h'.7.trans h.7,
    h'.8.trans h.8, h'.9.trans h.9, h'.10.trans h.10, h'.11.trans h.11, h'.12.trans h.12, h'.13.trans h.13⟩

/-- A change of the fields such an instruction may write. -/
theorem of_eq (h : { t with x := s.x, pc := s.pc, priv := s.priv, csr := s.csr, flags := s.flags, ptw := s.ptw
                            draws := s.draws } = s) : s.sameMachine t := by
  constructor <;> rw [← h]

theorem trap (e : Trap) (v : Word) : s.sameMachine (trapEntry e v s) := by constructor <;> simp

theorem raise (e : Exc) (v : Word) : s.sameMachine (Machine.raise e v s) := trap ..

theorem undecodable : s.sameMachine (raiseUndecodable s) :=
  (of_eq (t := { s with flags.illegalException := true }) rfl).trans (trap ..)

theorem writeRd (rd : Reg) (v : Word) : s.sameMachine (s.writeRd rd v) := by constructor <;> simp

theorem setReg (rd : Reg) (v : Word) : s.sameMachine (s.setReg rd v) := by constructor <;> simp

theorem transferTo (target : Word) (h : s.sameMachine t) : s.sameMachine (Machine.transferTo target t s) := by
  unfold Machine.transferTo; split
  · exact raise ..
  · exact h.trans (of_eq rfl)

theorem branch (cond : Bool) (target : Word) : s.sameMachine (Machine.branch cond target s) := by
  unfold Machine.branch; split
  · exact (of_eq (t := s.setBranchFlags true) rfl).trans (transferTo _ refl)
  · exact of_eq rfl

theorem withRounding (rm : BitVec 3) (rd : Reg) (f : Rounding → Word) :
    s.sameMachine (Machine.withRounding rm rd f s) := by
  unfold Machine.withRounding; split
  · exact undecodable
  · exact writeRd ..

theorem csrRead (c : Csr) : s.sameMachine (Machine.csrRead c s).2 := by cases c <;> exact of_eq rfl

theorem csrWrite (c : Csr) (v : Word) : s.sameMachine (Machine.csrWrite c v s) := by
  cases c <;> exact of_eq rfl

theorem csrOp (n : BitVec 12) (rd : Reg) (w : Bool) (new : Word → Word) :
    s.sameMachine (Machine.csrOp n rd w new s) := by
  have written : ∀ {d : State} (v : Word), s.sameMachine d →
      s.sameMachine { d.writeRd rd v with flags.isCsr := true } := fun v hd =>
    (hd.trans (writeRd rd v)).trans (of_eq rfl)
  unfold Machine.csrOp; split
  · exact trap ..
  · dsimp only
    split
    · exact written _ ((csrRead ..).trans (csrWrite ..))
    · exact written _ (csrRead ..)

end State.sameMachine

/-- An instruction without a data access touches registers, pc, mode, CSRs, flags and PTW cache only. -/
theorem exec_sameMachine {i : Instr} {s t : State} (h : preDecode i s = none) (he : exec i s = .next t) :
    s.sameMachine t := by
  cases i <;> simp [preDecode] at h <;> cases he
  all_goals first
    | exact .writeRd ..
    | exact .csrOp ..
    | exact .transferTo _ (.setReg ..)
    | exact .branch ..
    | exact .withRounding ..
    | exact .raise ..
    | exact .of_eq rfl
    | (split <;> first | exact .raise .. | exact .of_eq rfl)

/-- An instruction without a data access always completes. -/
theorem exec_completes {i : Instr} {s : State} (h : preDecode i s = none) : ∃ t, exec i s = .next t := by
  cases i <;> simp [preDecode] at h <;> exact ⟨_, rfl⟩

/-! ## Translation and the mirror -/

/-- A walk keeps the mirror's canonical form. -/
theorem translate_mirror_wf (s : State) (va : Word) (ty : Access) (h : s.mirror.wf = true) :
    (translate s va ty).2.mirror.wf = true := by
  have key : ∀ u pa, (fun a b : State => a.mirror.wf = true → b.mirror.wf = true) u (pteReadDirect u pa).2 := by
    intro u pa hu
    unfold pteReadDirect
    split
    · exact hu
    · split
      · exact hu
      · rw [busRead_eq]
        have := Memory.wf_writeWord (a := pa) (d := u.slave.mem.readWord pa) hu
        split <;> simp_all [State.ptwFill, State.tickBy] <;> (obtain ⟨-, rfl⟩ := ‹_ ∧ _›; exact this)
  unfold Machine.translate translateWith
  split
  · exact walk_frame s pteReadDirect (fun a b : State => a.mirror.wf = true → b.mirror.wf = true)
      (fun _ _ _ h1 h2 h => h2 (h1 h)) key va ty (effPriv s ty) h
  · exact h

/-! ## The parts of a pass (R402, R405, R430) -/

/-- The state in which the fetch's translation begins: fault flags and request kind cleared, one tick passed (R402). -/
def fetchStart (s : State) : State := { s.clearFaultFlags with memop.kind := .none }.tickBy 1

theorem fetchStart_translate (s : State) (va : Word) (ty : Access) :
    (translate (fetchStart s) va ty).1 = (translate s va ty).1 :=
  (translate_congr (s := s) (t := fetchStart s) ⟨rfl, rfl, rfl, rfl, rfl⟩ va ty).1

/-- What the fetch makes of its translation's answer (R402, R405). -/
def fetchAnswer (p : Translation × State) : State :=
  match p with
  | (.ok pa, s2) => if s2.inBounds pa then fetchWord pa s2 else noInstruction (s2.setAccessFault .fetch)
  | (.pageFault, s2) => noInstruction (s2.setPageFault .fetch)
  | (.accessFault, s2) => noInstruction (s2.setAccessFault .fetch)
  | (.pending, s2) => noInstruction (s2.setAccessFault .fetch)

theorem fetchPhase_eq (s : State) : fetchPhase s = fetchAnswer (translate (fetchStart s) s.pc .fetch) := rfl

section FetchAnswer
variable {p : Translation × State} {pa : Word}

theorem fetchAnswer_ok (h : p.1 = .ok pa) (hb : p.2.inBounds pa = true) : fetchAnswer p = fetchWord pa p.2 := by
  obtain ⟨r, s2⟩ := p; simp only at h; subst h; exact if_pos hb

theorem fetchAnswer_outOfBounds (h : p.1 = .ok pa) (hb : p.2.inBounds pa = false) :
    fetchAnswer p = noInstruction (p.2.setAccessFault .fetch) := by
  obtain ⟨r, s2⟩ := p; simp only at h; subst h; exact if_neg (by simpa using hb)

theorem fetchAnswer_pageFault (h : p.1 = .pageFault) : fetchAnswer p = noInstruction (p.2.setPageFault .fetch) := by
  obtain ⟨r, s2⟩ := p; simp only at h; subst h; rfl

theorem fetchAnswer_accessFault (h : p.1 = .accessFault) :
    fetchAnswer p = noInstruction (p.2.setAccessFault .fetch) := by
  obtain ⟨r, s2⟩ := p; simp only at h; subst h; rfl

end FetchAnswer

/-- A fetch that succeeds: the word, the flags, and all that a program sees as before. -/
theorem fetchPhase_reads {s : State} {pa : Word} (hw : s.mirror.wf = true) (hr : s.reaches s.pc .fetch pa)
    (ho : s.readsOk pa) :
    (fetchPhase s).instWord = s.slave.mem.readWord pa ∧ (fetchPhase s).fetchPaddr = pa ∧
    (fetchPhase s).flags = (fetchStart s).flags ∧ (fetchPhase s).mirror.wf = true := by
  have hs : (translate (fetchStart s) s.pc .fetch).2.slave = s.slave := translate_slave (fetchStart s) _ _
  have hwf := translate_mirror_wf (fetchStart s) s.pc .fetch hw
  have hb := (translate_inBounds (fetchStart s) s.pc .fetch pa).trans hr.2
  have hf := translate_flags (fetchStart s) s.pc .fetch
  have h1 := (fetchStart_translate s s.pc .fetch).trans hr.1
  rw [fetchPhase_eq, fetchAnswer_ok h1 hb]
  generalize translate (fetchStart s) s.pc .fetch = p at *
  have he : busRead pa { p.2 with fetchPaddr := pa } = (false, (busRead pa { p.2 with fetchPaddr := pa }).2) := by
    refine Prod.ext ?_ rfl
    show p.2.slave.readErr.contains (wordAddress pa) = false
    rw [hs]; exact ho
  unfold fetchWord
  rw [he, ← hs]
  exact ⟨Memory.readWord_writeWord hwf .., rfl, hf, Memory.wf_writeWord hwf ..⟩

/-- Whatever a fetch answers, it changes nothing a program sees (R430). -/
theorem fetchPhase_sameArch (s : State) : s.sameArch (fetchPhase s) := by
  have answer : ∀ p : Translation × State, p.2.sameArch (fetchAnswer p) := by
    rintro ⟨r, s2⟩
    cases r <;> simp only [fetchAnswer]
    · split
      · unfold fetchWord
        split <;> rename_i s3 h <;> obtain rfl : _ = s3 := congrArg Prod.snd h <;>
          exact ⟨rfl, rfl, rfl, rfl, rfl, rfl, rfl⟩
      · exact ⟨rfl, rfl, rfl, rfl, rfl, rfl, rfl⟩
    all_goals exact ⟨rfl, rfl, rfl, rfl, rfl, rfl, rfl⟩
  rw [fetchPhase_eq]
  obtain ⟨h1, h2, h3, h4, h5, h6, h7⟩ := answer (translate (fetchStart s) s.pc .fetch)
  exact ⟨h1.trans (translate_x (fetchStart s) _ _), h2.trans (translate_pc (fetchStart s) _ _),
    h3.trans (translate_priv (fetchStart s) _ _), h4.trans (translate_csr (fetchStart s) _ _),
    h5.trans (translate_res (fetchStart s) _ _), h6.trans (translate_slave (fetchStart s) _ _),
    h7.trans (translate_uartOut (fetchStart s) _ _)⟩

/-- The decision looks at CSRs and mode only (R512). -/
theorem takeableInterrupt_congr {s t : State} (h1 : t.csr = s.csr) (h2 : t.priv = s.priv) :
    takeableInterrupt t = takeableInterrupt s := by
  simp [takeableInterrupt, irqFlags, interruptCandidates, mEnabled, sEnabled, interruptPending, h1, h2]

/-- The four things the decision of R430 can come to. -/
theorem passExecute_cases (s : State) :
    (∃ j, takeableInterrupt s = some j ∧ passExecute s = .next (takeInterrupt j (accessOfWord s.beginExec))) ∨
    (takeableInterrupt s = none ∧
      ((s.flags.pageFaultInst = true ∧ passExecute s = .next (raise .instrPageFault s.pc s.beginExec)) ∨
       (s.flags.pageFaultInst = false ∧ s.flags.accessFaultInst = true ∧
          passExecute s = .next (raise .instrAccessFault s.pc s.beginExec)) ∨
       (s.flags.pageFaultInst = false ∧ s.flags.accessFaultInst = false ∧
          (((∃ e, decode s.instWord = .error e) ∧ passExecute s = .next (raiseUndecodable s.beginExec)) ∨
           ∃ i, decode s.instWord = .ok i ∧ passExecute s = exec i s.beginExec)))) := by
  have ht : firstInterrupt s.beginExec.flags.irq = takeableInterrupt s := rfl
  have e1 : s.beginExec.flags.pageFaultInst = s.flags.pageFaultInst := rfl
  have e2 : s.beginExec.flags.accessFaultInst = s.flags.accessFaultInst := rfl
  have e3 : s.beginExec.instWord = s.instWord := rfl
  unfold passExecute
  dsimp only
  rw [ht, e1, e2, e3]
  cases takeableInterrupt s with
  | some j => exact .inl ⟨j, rfl, rfl⟩
  | none =>
    refine .inr ⟨rfl, ?_⟩
    cases s.flags.pageFaultInst
    · refine .inr ?_
      cases s.flags.accessFaultInst
      · refine .inr ⟨rfl, rfl, ?_⟩
        cases decode s.instWord with
        | ok i => exact .inr ⟨i, rfl, rfl⟩
        | error e => exact .inl ⟨⟨e, rfl⟩, rfl⟩
      · exact .inl ⟨rfl, rfl, rfl⟩
    · exact .inl ⟨rfl, rfl⟩

/-- Whatever the final pc is, it is a multiple of 4 (R22). -/
theorem haltEbreak_alignedPc (s : State) : alignedPc (haltEbreak s).pc := by
  show (Config.haltedPc s.draws ++ 0#2).extractLsb' 0 2 = 0#2
  ext i hi
  simp only [BitVec.getElem_extractLsb', BitVec.getLsbD_append, Nat.zero_add, hi, if_true]
  simp

/-- What retiring an instruction does (R420, R422): the EBREAK word leaves only the pc open (U10). -/
theorem retire_cases (t : State) :
    t.sameArch { retire t with pc := t.pc } ∧ (t.instWord ≠ Config.instEbreak → (retire t).pc = t.pc) ∧
    (alignedPc t.pc → alignedPc (retire t).pc) ∧
    (retire t).flags = t.flags ∧ (retire t).mirror = t.mirror ∧
    (retire t).instWord = t.instWord ∧ (retire t).latch.store = false ∧
    (retire t).ctl.instCount = t.ctl.instCount + 1#64 ∧ (retire t).status.instCount = t.ctl.instCount + 1#64 ∧
    (retire t).stage = (if t.instWord = Config.instEbreak then .halted else t.stage) := by
  unfold retire
  dsimp only
  by_cases h : t.instWord = Config.instEbreak
  · simp only [if_pos h]
    exact ⟨⟨rfl, rfl, rfl, rfl, rfl, rfl, rfl⟩, fun hn => absurd h hn,
      fun _ => haltEbreak_alignedPc _, rfl, rfl, rfl, rfl, rfl, rfl, rfl⟩
  · simp only [if_neg h]
    exact ⟨⟨rfl, rfl, rfl, rfl, rfl, rfl, rfl⟩, fun _ => rfl, id, rfl, rfl, rfl, rfl, rfl, rfl, rfl⟩

/-- At an instruction boundary with no limit reached, a step is one pass. -/
theorem step_ready {s : State} (h : s.ready) : step s = instructionPass s := by
  obtain ⟨h1, h2, h3⟩ := h
  have hst : s.stage ≠ .halted := by
    simp [State.atBoundary] at h1; rw [h1.1.1]; decide
  have h2' : ¬s.ctl.maxInst ≤ s.ctl.instCount := by simpa using h2
  have h3' : ¬s.ctl.maxCycles ≤ s.ctl.simTime := by simpa using h3
  simp [step, machineStep, hst, h1, limitedPass, limitHalt, h2', h3']

end Sys2Proof.Machine
end

