-- ==== Sys2Proof/Laws/PerInstr.lean ====
section
/-! SUPPORT. The family `TableRow`: an instruction's own word carries the fixed bits of its row of the opcode table
(R151), constructor by constructor. -/

namespace Sys2Proof.Laws.TableRow

/-- The word `encode` gives for `i` is an instance of the table row that bears `i`'s mnemonic. -/
def Statement (i : Instr) : Prop := ∃ r ∈ opcodeTable, r.mnemonic = i.mnemonic ∧ r.covers (encode i) = true

/-- A word packed from six fields is covered by a row whose mask and value are packed from six fields too, if the
fields agree under the mask. -/
theorem covers_packR {n : String} {f7 g7 v7 : BitVec 7} {rs2 rs1 rd s2 s1 d v2 v1 vd : Reg} {f3 g3 v3 : BitVec 3}
    {op o vo : BitVec 7} (h7 : f7 &&& g7 = v7) (h2 : rs2 &&& s2 = v2) (h1 : rs1 &&& s1 = v1) (h3 : f3 &&& g3 = v3)
    (hd : rd &&& d = vd) (ho : op &&& o = vo) :
    TableRow.covers ⟨n, packR g7 s2 s1 g3 d o, packR v7 v2 v1 v3 vd vo⟩ (packR f7 rs2 rs1 f3 rd op) = true := by
  simp [TableRow.covers, packR_and, h7, h2, h1, h3, hd, ho]

/-- The row of a mnemonic, by its place in the table. -/
theorem row_mem {r : TableRow} (n : Nat) (h : opcodeTable[n]? = some r) : r ∈ opcodeTable :=
  List.mem_of_getElem? h

/-- Only the opcode is fixed (formats U and J). -/
theorem covers_opcode {n : String} {v : Word} (f7 : BitVec 7) (rs2 rs1 rd : Reg) (f3 : BitVec 3) (op : BitVec 7)
    (hv : v = packR 0#7 0#5 0#5 0#3 0#5 op) :
    TableRow.covers ⟨n, 0x0000007F#32, v⟩ (packR f7 rs2 rs1 f3 rd op) = true := by
  subst hv
  exact covers_packR (g7 := 0#7) (s2 := 0#5) (s1 := 0#5) (g3 := 0#3) (d := 0#5) (o := 0x7F#7) (by simp) (by simp)
    (by simp) (by simp) (by simp) (BitVec.and_allOnes (x := op))

/-- Opcode and funct3 are fixed (formats I, S, B, I-csr, I-fence). -/
theorem covers_funct3 {n : String} {v : Word} (f7 : BitVec 7) (rs2 rs1 rd : Reg) (f3 : BitVec 3) (op : BitVec 7)
    (hv : v = packR 0#7 0#5 0#5 f3 0#5 op) :
    TableRow.covers ⟨n, 0x0000707F#32, v⟩ (packR f7 rs2 rs1 f3 rd op) = true := by
  subst hv
  exact covers_packR (g7 := 0#7) (s2 := 0#5) (s1 := 0#5) (g3 := 7#3) (d := 0#5) (o := 0x7F#7) (by simp) (by simp)
    (by simp) (BitVec.and_allOnes (x := f3)) (by simp) (BitVec.and_allOnes (x := op))

/-- Opcode, funct3 and funct7 are fixed (formats R, I-shift). -/
theorem covers_funct7 {n : String} {v : Word} (f7 : BitVec 7) (rs2 rs1 rd : Reg) (f3 : BitVec 3) (op : BitVec 7)
    (hv : v = packR f7 0#5 0#5 f3 0#5 op) :
    TableRow.covers ⟨n, 0xFE00707F#32, v⟩ (packR f7 rs2 rs1 f3 rd op) = true := by
  subst hv
  exact covers_packR (g7 := 0x7F#7) (s2 := 0#5) (s1 := 0#5) (g3 := 7#3) (d := 0#5) (o := 0x7F#7)
    (BitVec.and_allOnes (x := f7)) (by simp) (by simp) (BitVec.and_allOnes (x := f3)) (by simp)
    (BitVec.and_allOnes (x := op))

/-- Opcode, funct3 and funct5 are fixed, aq and rl are free (format R-amo). -/
theorem covers_amo {n : String} {v : Word} (f5 : BitVec 5) (aq rl : Bool) (rs2 rs1 rd : Reg)
    (hv : v = packR (amoFunct7 f5 false false) 0#5 0#5 0b010#3 0#5 0b0101111#7) :
    TableRow.covers ⟨n, 0xF800707F#32, v⟩ (packR (amoFunct7 f5 aq rl) rs2 rs1 0b010#3 rd 0b0101111#7) = true := by
  subst hv
  exact covers_packR (g7 := 0x7C#7) (s2 := 0#5) (s1 := 0#5) (g3 := 7#3) (d := 0#5) (o := 0x7F#7)
    (by revert f5 aq rl; decide) (by simp) (by simp) (by decide) (by simp) (by decide)

/-- Opcode, funct3, funct5 and a zero rs2 are fixed (LR.W). -/
theorem covers_lr {n : String} {v : Word} (f5 : BitVec 5) (aq rl : Bool) (rs1 rd : Reg)
    (hv : v = packR (amoFunct7 f5 false false) 0#5 0#5 0b010#3 0#5 0b0101111#7) :
    TableRow.covers ⟨n, 0xF9F0707F#32, v⟩ (packR (amoFunct7 f5 aq rl) 0#5 rs1 0b010#3 rd 0b0101111#7) = true := by
  subst hv
  exact covers_packR (g7 := 0x7C#7) (s2 := 0x1F#5) (s1 := 0#5) (g3 := 7#3) (d := 0#5) (o := 0x7F#7)
    (by revert f5 aq rl; decide) (by simp) (by simp) (by decide) (by simp) (by decide)

/-- Opcode and funct7 are fixed, rm is free (format R-fp). -/
theorem covers_fp {n : String} {v : Word} (f7 : BitVec 7) (rs2 rs1 rd : Reg) (rm : BitVec 3) (op : BitVec 7)
    (hv : v = packR f7 0#5 0#5 0#3 0#5 op) :
    TableRow.covers ⟨n, 0xFE00007F#32, v⟩ (packR f7 rs2 rs1 rm rd op) = true := by
  subst hv
  exact covers_packR (g7 := 0x7F#7) (s2 := 0#5) (s1 := 0#5) (g3 := 0#3) (d := 0#5) (o := 0x7F#7)
    (BitVec.and_allOnes (x := f7)) (by simp) (by simp) (by simp) (by simp) (BitVec.and_allOnes (x := op))

/-- Opcode, funct7 and rs2 are fixed, rm is free (FSQRT.S, the conversions). -/
theorem covers_fp1 {n : String} {v : Word} (f7 : BitVec 7) (rs2 rs1 rd : Reg) (rm : BitVec 3) (op : BitVec 7)
    (hv : v = packR f7 rs2 0#5 0#3 0#5 op) :
    TableRow.covers ⟨n, 0xFFF0007F#32, v⟩ (packR f7 rs2 rs1 rm rd op) = true := by
  subst hv
  exact covers_packR (g7 := 0x7F#7) (s2 := 0x1F#5) (s1 := 0#5) (g3 := 0#3) (d := 0#5) (o := 0x7F#7)
    (BitVec.and_allOnes (x := f7)) (BitVec.and_allOnes (x := rs2)) (by simp) (by simp) (by simp)
    (BitVec.and_allOnes (x := op))

/-- Opcode, funct7, rs2 and funct3 are fixed (FCLASS.S). -/
theorem covers_fclass {n : String} {v : Word} (f7 : BitVec 7) (rs2 rs1 rd : Reg) (f3 : BitVec 3) (op : BitVec 7)
    (hv : v = packR f7 rs2 0#5 f3 0#5 op) :
    TableRow.covers ⟨n, 0xFFF0707F#32, v⟩ (packR f7 rs2 rs1 f3 rd op) = true := by
  subst hv
  exact covers_packR (g7 := 0x7F#7) (s2 := 0x1F#5) (s1 := 0#5) (g3 := 7#3) (d := 0#5) (o := 0x7F#7)
    (BitVec.and_allOnes (x := f7)) (BitVec.and_allOnes (x := rs2)) (by simp) (BitVec.and_allOnes (x := f3)) (by simp)
    (BitVec.and_allOnes (x := op))

/-- Opcode, funct3, funct7 and rd are fixed (SFENCE.VMA). -/
theorem covers_sfence {n : String} {v : Word} (f7 : BitVec 7) (rs2 rs1 rd : Reg) (f3 : BitVec 3) (op : BitVec 7)
    (hv : v = packR f7 0#5 0#5 f3 rd op) :
    TableRow.covers ⟨n, 0xFE007FFF#32, v⟩ (packR f7 rs2 rs1 f3 rd op) = true := by
  subst hv
  exact covers_packR (g7 := 0x7F#7) (s2 := 0#5) (s1 := 0#5) (g3 := 7#3) (d := 0x1F#5) (o := 0x7F#7)
    (BitVec.and_allOnes (x := f7)) (by simp) (by simp) (BitVec.and_allOnes (x := f3)) (BitVec.and_allOnes (x := rd))
    (BitVec.and_allOnes (x := op))

/-- Opcode and fmt are fixed (format R4). -/
theorem covers_r4 {n : String} {v : Word} (rs3 rs2 rs1 rd : Reg) (rm : BitVec 3) (op : BitVec 7)
    (hv : v = packR 0#7 0#5 0#5 0#3 0#5 op) :
    TableRow.covers ⟨n, 0x0600007F#32, v⟩ (packR (r4Funct7 rs3) rs2 rs1 rm rd op) = true := by
  subst hv
  exact covers_packR (g7 := 0x03#7) (s2 := 0#5) (s1 := 0#5) (g3 := 0#3) (d := 0#5) (o := 0x7F#7)
    (by revert rs3; decide) (by simp) (by simp) (by simp) (by simp) (BitVec.and_allOnes (x := op))

theorem lui (rd : Reg) (imm : BitVec 20) : Statement (.lui rd imm) :=
  ⟨_, row_mem 0 rfl, rfl, covers_opcode _ _ _ _ _ _ (by decide)⟩

theorem auipc (rd : Reg) (imm : BitVec 20) : Statement (.auipc rd imm) :=
  ⟨_, row_mem 1 rfl, rfl, covers_opcode _ _ _ _ _ _ (by decide)⟩

theorem jal (rd : Reg) (off : BitVec 21) : Statement (.jal rd off) :=
  ⟨_, row_mem 2 rfl, rfl, covers_opcode _ _ _ _ _ _ (by decide)⟩

theorem jalr (rd : Reg) (rs1 : Reg) (imm : BitVec 12) : Statement (.jalr rd rs1 imm) :=
  ⟨_, row_mem 3 rfl, rfl, covers_funct3 _ _ _ _ _ _ (by decide)⟩

theorem beq (rs1 : Reg) (rs2 : Reg) (off : BitVec 13) : Statement (.beq rs1 rs2 off) :=
  ⟨_, row_mem 4 rfl, rfl, covers_funct3 _ _ _ _ _ _ (by decide)⟩

theorem bne (rs1 : Reg) (rs2 : Reg) (off : BitVec 13) : Statement (.bne rs1 rs2 off) :=
  ⟨_, row_mem 5 rfl, rfl, covers_funct3 _ _ _ _ _ _ (by decide)⟩

theorem blt (rs1 : Reg) (rs2 : Reg) (off : BitVec 13) : Statement (.blt rs1 rs2 off) :=
  ⟨_, row_mem 6 rfl, rfl, covers_funct3 _ _ _ _ _ _ (by decide)⟩

theorem bge (rs1 : Reg) (rs2 : Reg) (off : BitVec 13) : Statement (.bge rs1 rs2 off) :=
  ⟨_, row_mem 7 rfl, rfl, covers_funct3 _ _ _ _ _ _ (by decide)⟩

theorem bltu (rs1 : Reg) (rs2 : Reg) (off : BitVec 13) : Statement (.bltu rs1 rs2 off) :=
  ⟨_, row_mem 8 rfl, rfl, covers_funct3 _ _ _ _ _ _ (by decide)⟩

theorem bgeu (rs1 : Reg) (rs2 : Reg) (off : BitVec 13) : Statement (.bgeu rs1 rs2 off) :=
  ⟨_, row_mem 9 rfl, rfl, covers_funct3 _ _ _ _ _ _ (by decide)⟩

theorem lb (rd : Reg) (rs1 : Reg) (imm : BitVec 12) : Statement (.lb rd rs1 imm) :=
  ⟨_, row_mem 10 rfl, rfl, covers_funct3 _ _ _ _ _ _ (by decide)⟩

theorem lh (rd : Reg) (rs1 : Reg) (imm : BitVec 12) : Statement (.lh rd rs1 imm) :=
  ⟨_, row_mem 11 rfl, rfl, covers_funct3 _ _ _ _ _ _ (by decide)⟩

theorem lw (rd : Reg) (rs1 : Reg) (imm : BitVec 12) : Statement (.lw rd rs1 imm) :=
  ⟨_, row_mem 12 rfl, rfl, covers_funct3 _ _ _ _ _ _ (by decide)⟩

theorem lbu (rd : Reg) (rs1 : Reg) (imm : BitVec 12) : Statement (.lbu rd rs1 imm) :=
  ⟨_, row_mem 13 rfl, rfl, covers_funct3 _ _ _ _ _ _ (by decide)⟩

theorem lhu (rd : Reg) (rs1 : Reg) (imm : BitVec 12) : Statement (.lhu rd rs1 imm) :=
  ⟨_, row_mem 14 rfl, rfl, covers_funct3 _ _ _ _ _ _ (by decide)⟩

theorem sb (rs1 : Reg) (rs2 : Reg) (imm : BitVec 12) : Statement (.sb rs1 rs2 imm) :=
  ⟨_, row_mem 15 rfl, rfl, covers_funct3 _ _ _ _ _ _ (by decide)⟩

theorem sh (rs1 : Reg) (rs2 : Reg) (imm : BitVec 12) : Statement (.sh rs1 rs2 imm) :=
  ⟨_, row_mem 16 rfl, rfl, covers_funct3 _ _ _ _ _ _ (by decide)⟩

theorem sw (rs1 : Reg) (rs2 : Reg) (imm : BitVec 12) : Statement (.sw rs1 rs2 imm) :=
  ⟨_, row_mem 17 rfl, rfl, covers_funct3 _ _ _ _ _ _ (by decide)⟩

theorem addi (rd : Reg) (rs1 : Reg) (imm : BitVec 12) : Statement (.addi rd rs1 imm) :=
  ⟨_, row_mem 18 rfl, rfl, covers_funct3 _ _ _ _ _ _ (by decide)⟩

theorem slti (rd : Reg) (rs1 : Reg) (imm : BitVec 12) : Statement (.slti rd rs1 imm) :=
  ⟨_, row_mem 19 rfl, rfl, covers_funct3 _ _ _ _ _ _ (by decide)⟩

theorem sltiu (rd : Reg) (rs1 : Reg) (imm : BitVec 12) : Statement (.sltiu rd rs1 imm) :=
  ⟨_, row_mem 20 rfl, rfl, covers_funct3 _ _ _ _ _ _ (by decide)⟩

theorem xori (rd : Reg) (rs1 : Reg) (imm : BitVec 12) : Statement (.xori rd rs1 imm) :=
  ⟨_, row_mem 21 rfl, rfl, covers_funct3 _ _ _ _ _ _ (by decide)⟩

theorem ori (rd : Reg) (rs1 : Reg) (imm : BitVec 12) : Statement (.ori rd rs1 imm) :=
  ⟨_, row_mem 22 rfl, rfl, covers_funct3 _ _ _ _ _ _ (by decide)⟩

theorem andi (rd : Reg) (rs1 : Reg) (imm : BitVec 12) : Statement (.andi rd rs1 imm) :=
  ⟨_, row_mem 23 rfl, rfl, covers_funct3 _ _ _ _ _ _ (by decide)⟩

theorem slli (rd : Reg) (rs1 : Reg) (shamt : BitVec 5) : Statement (.slli rd rs1 shamt) :=
  ⟨_, row_mem 24 rfl, rfl, covers_funct7 _ _ _ _ _ _ (by decide)⟩

theorem srli (rd : Reg) (rs1 : Reg) (shamt : BitVec 5) : Statement (.srli rd rs1 shamt) :=
  ⟨_, row_mem 25 rfl, rfl, covers_funct7 _ _ _ _ _ _ (by decide)⟩

theorem srai (rd : Reg) (rs1 : Reg) (shamt : BitVec 5) : Statement (.srai rd rs1 shamt) :=
  ⟨_, row_mem 26 rfl, rfl, covers_funct7 _ _ _ _ _ _ (by decide)⟩

theorem add (rd : Reg) (rs1 : Reg) (rs2 : Reg) : Statement (.add rd rs1 rs2) :=
  ⟨_, row_mem 27 rfl, rfl, covers_funct7 _ _ _ _ _ _ (by decide)⟩

theorem sub (rd : Reg) (rs1 : Reg) (rs2 : Reg) : Statement (.sub rd rs1 rs2) :=
  ⟨_, row_mem 28 rfl, rfl, covers_funct7 _ _ _ _ _ _ (by decide)⟩

theorem sll (rd : Reg) (rs1 : Reg) (rs2 : Reg) : Statement (.sll rd rs1 rs2) :=
  ⟨_, row_mem 29 rfl, rfl, covers_funct7 _ _ _ _ _ _ (by decide)⟩

theorem slt (rd : Reg) (rs1 : Reg) (rs2 : Reg) : Statement (.slt rd rs1 rs2) :=
  ⟨_, row_mem 30 rfl, rfl, covers_funct7 _ _ _ _ _ _ (by decide)⟩

theorem sltu (rd : Reg) (rs1 : Reg) (rs2 : Reg) : Statement (.sltu rd rs1 rs2) :=
  ⟨_, row_mem 31 rfl, rfl, covers_funct7 _ _ _ _ _ _ (by decide)⟩

theorem xor (rd : Reg) (rs1 : Reg) (rs2 : Reg) : Statement (.xor rd rs1 rs2) :=
  ⟨_, row_mem 32 rfl, rfl, covers_funct7 _ _ _ _ _ _ (by decide)⟩

theorem srl (rd : Reg) (rs1 : Reg) (rs2 : Reg) : Statement (.srl rd rs1 rs2) :=
  ⟨_, row_mem 33 rfl, rfl, covers_funct7 _ _ _ _ _ _ (by decide)⟩

theorem sra (rd : Reg) (rs1 : Reg) (rs2 : Reg) : Statement (.sra rd rs1 rs2) :=
  ⟨_, row_mem 34 rfl, rfl, covers_funct7 _ _ _ _ _ _ (by decide)⟩

theorem or (rd : Reg) (rs1 : Reg) (rs2 : Reg) : Statement (.or rd rs1 rs2) :=
  ⟨_, row_mem 35 rfl, rfl, covers_funct7 _ _ _ _ _ _ (by decide)⟩

theorem and (rd : Reg) (rs1 : Reg) (rs2 : Reg) : Statement (.and rd rs1 rs2) :=
  ⟨_, row_mem 36 rfl, rfl, covers_funct7 _ _ _ _ _ _ (by decide)⟩

theorem fence (fm : BitVec 4) (pred : BitVec 4) (succ : BitVec 4) (rs1 : Reg) (rd : Reg) : Statement (.fence fm pred succ rs1 rd) :=
  ⟨_, row_mem 37 rfl, rfl, covers_funct3 _ _ _ _ _ _ (by decide)⟩

theorem fenceI (imm : BitVec 12) (rs1 : Reg) (rd : Reg) : Statement (.fenceI imm rs1 rd) :=
  ⟨_, row_mem 38 rfl, rfl, covers_funct3 _ _ _ _ _ _ (by decide)⟩

theorem ecall : Statement .ecall :=
  ⟨_, row_mem 39 rfl, rfl, by decide⟩

theorem ebreak : Statement .ebreak :=
  ⟨_, row_mem 40 rfl, rfl, by decide⟩

theorem sret : Statement .sret :=
  ⟨_, row_mem 41 rfl, rfl, by decide⟩

theorem mret : Statement .mret :=
  ⟨_, row_mem 42 rfl, rfl, by decide⟩

theorem wfi : Statement .wfi :=
  ⟨_, row_mem 43 rfl, rfl, by decide⟩

theorem sfenceVma (rs1 : Reg) (rs2 : Reg) : Statement (.sfenceVma rs1 rs2) :=
  ⟨_, row_mem 44 rfl, rfl, covers_sfence _ _ _ _ _ _ (by decide)⟩

theorem mul (rd : Reg) (rs1 : Reg) (rs2 : Reg) : Statement (.mul rd rs1 rs2) :=
  ⟨_, row_mem 45 rfl, rfl, covers_funct7 _ _ _ _ _ _ (by decide)⟩

theorem mulh (rd : Reg) (rs1 : Reg) (rs2 : Reg) : Statement (.mulh rd rs1 rs2) :=
  ⟨_, row_mem 46 rfl, rfl, covers_funct7 _ _ _ _ _ _ (by decide)⟩

theorem mulhsu (rd : Reg) (rs1 : Reg) (rs2 : Reg) : Statement (.mulhsu rd rs1 rs2) :=
  ⟨_, row_mem 47 rfl, rfl, covers_funct7 _ _ _ _ _ _ (by decide)⟩

theorem mulhu (rd : Reg) (rs1 : Reg) (rs2 : Reg) : Statement (.mulhu rd rs1 rs2) :=
  ⟨_, row_mem 48 rfl, rfl, covers_funct7 _ _ _ _ _ _ (by decide)⟩

theorem div (rd : Reg) (rs1 : Reg) (rs2 : Reg) : Statement (.div rd rs1 rs2) :=
  ⟨_, row_mem 49 rfl, rfl, covers_funct7 _ _ _ _ _ _ (by decide)⟩

theorem divu (rd : Reg) (rs1 : Reg) (rs2 : Reg) : Statement (.divu rd rs1 rs2) :=
  ⟨_, row_mem 50 rfl, rfl, covers_funct7 _ _ _ _ _ _ (by decide)⟩

theorem rem (rd : Reg) (rs1 : Reg) (rs2 : Reg) : Statement (.rem rd rs1 rs2) :=
  ⟨_, row_mem 51 rfl, rfl, covers_funct7 _ _ _ _ _ _ (by decide)⟩

theorem remu (rd : Reg) (rs1 : Reg) (rs2 : Reg) : Statement (.remu rd rs1 rs2) :=
  ⟨_, row_mem 52 rfl, rfl, covers_funct7 _ _ _ _ _ _ (by decide)⟩

theorem lrW (rd : Reg) (rs1 : Reg) (aq : Bool) (rl : Bool) : Statement (.lrW rd rs1 aq rl) :=
  ⟨_, row_mem 53 rfl, rfl, covers_lr _ _ _ _ _ (by decide)⟩

theorem scW (rd : Reg) (rs1 : Reg) (rs2 : Reg) (aq : Bool) (rl : Bool) : Statement (.scW rd rs1 rs2 aq rl) :=
  ⟨_, row_mem 54 rfl, rfl, covers_amo _ _ _ _ _ _ (by decide)⟩

theorem amoswapW (rd : Reg) (rs1 : Reg) (rs2 : Reg) (aq : Bool) (rl : Bool) : Statement (.amoswapW rd rs1 rs2 aq rl) :=
  ⟨_, row_mem 55 rfl, rfl, covers_amo _ _ _ _ _ _ (by decide)⟩

theorem amoaddW (rd : Reg) (rs1 : Reg) (rs2 : Reg) (aq : Bool) (rl : Bool) : Statement (.amoaddW rd rs1 rs2 aq rl) :=
  ⟨_, row_mem 56 rfl, rfl, covers_amo _ _ _ _ _ _ (by decide)⟩

theorem amoxorW (rd : Reg) (rs1 : Reg) (rs2 : Reg) (aq : Bool) (rl : Bool) : Statement (.amoxorW rd rs1 rs2 aq rl) :=
  ⟨_, row_mem 57 rfl, rfl, covers_amo _ _ _ _ _ _ (by decide)⟩

theorem amoandW (rd : Reg) (rs1 : Reg) (rs2 : Reg) (aq : Bool) (rl : Bool) : Statement (.amoandW rd rs1 rs2 aq rl) :=
  ⟨_, row_mem 58 rfl, rfl, covers_amo _ _ _ _ _ _ (by decide)⟩

theorem amoorW (rd : Reg) (rs1 : Reg) (rs2 : Reg) (aq : Bool) (rl : Bool) : Statement (.amoorW rd rs1 rs2 aq rl) :=
  ⟨_, row_mem 59 rfl, rfl, covers_amo _ _ _ _ _ _ (by decide)⟩

theorem amominW (rd : Reg) (rs1 : Reg) (rs2 : Reg) (aq : Bool) (rl : Bool) : Statement (.amominW rd rs1 rs2 aq rl) :=
  ⟨_, row_mem 60 rfl, rfl, covers_amo _ _ _ _ _ _ (by decide)⟩

theorem amomaxW (rd : Reg) (rs1 : Reg) (rs2 : Reg) (aq : Bool) (rl : Bool) : Statement (.amomaxW rd rs1 rs2 aq rl) :=
  ⟨_, row_mem 61 rfl, rfl, covers_amo _ _ _ _ _ _ (by decide)⟩

theorem amominuW (rd : Reg) (rs1 : Reg) (rs2 : Reg) (aq : Bool) (rl : Bool) : Statement (.amominuW rd rs1 rs2 aq rl) :=
  ⟨_, row_mem 62 rfl, rfl, covers_amo _ _ _ _ _ _ (by decide)⟩

theorem amomaxuW (rd : Reg) (rs1 : Reg) (rs2 : Reg) (aq : Bool) (rl : Bool) : Statement (.amomaxuW rd rs1 rs2 aq rl) :=
  ⟨_, row_mem 63 rfl, rfl, covers_amo _ _ _ _ _ _ (by decide)⟩

theorem csrrw (rd : Reg) (rs1 : Reg) (csr : BitVec 12) : Statement (.csrrw rd rs1 csr) :=
  ⟨_, row_mem 64 rfl, rfl, covers_funct3 _ _ _ _ _ _ (by decide)⟩

theorem csrrs (rd : Reg) (rs1 : Reg) (csr : BitVec 12) : Statement (.csrrs rd rs1 csr) :=
  ⟨_, row_mem 65 rfl, rfl, covers_funct3 _ _ _ _ _ _ (by decide)⟩

theorem csrrc (rd : Reg) (rs1 : Reg) (csr : BitVec 12) : Statement (.csrrc rd rs1 csr) :=
  ⟨_, row_mem 66 rfl, rfl, covers_funct3 _ _ _ _ _ _ (by decide)⟩

theorem csrrwi (rd : Reg) (uimm : BitVec 5) (csr : BitVec 12) : Statement (.csrrwi rd uimm csr) :=
  ⟨_, row_mem 67 rfl, rfl, covers_funct3 _ _ _ _ _ _ (by decide)⟩

theorem csrrsi (rd : Reg) (uimm : BitVec 5) (csr : BitVec 12) : Statement (.csrrsi rd uimm csr) :=
  ⟨_, row_mem 68 rfl, rfl, covers_funct3 _ _ _ _ _ _ (by decide)⟩

theorem csrrci (rd : Reg) (uimm : BitVec 5) (csr : BitVec 12) : Statement (.csrrci rd uimm csr) :=
  ⟨_, row_mem 69 rfl, rfl, covers_funct3 _ _ _ _ _ _ (by decide)⟩

theorem faddS (rd : Reg) (rs1 : Reg) (rs2 : Reg) (rm : BitVec 3) : Statement (.faddS rd rs1 rs2 rm) :=
  ⟨_, row_mem 70 rfl, rfl, covers_fp _ _ _ _ _ _ (by decide)⟩

theorem fsubS (rd : Reg) (rs1 : Reg) (rs2 : Reg) (rm : BitVec 3) : Statement (.fsubS rd rs1 rs2 rm) :=
  ⟨_, row_mem 71 rfl, rfl, covers_fp _ _ _ _ _ _ (by decide)⟩

theorem fmulS (rd : Reg) (rs1 : Reg) (rs2 : Reg) (rm : BitVec 3) : Statement (.fmulS rd rs1 rs2 rm) :=
  ⟨_, row_mem 72 rfl, rfl, covers_fp _ _ _ _ _ _ (by decide)⟩

theorem fdivS (rd : Reg) (rs1 : Reg) (rs2 : Reg) (rm : BitVec 3) : Statement (.fdivS rd rs1 rs2 rm) :=
  ⟨_, row_mem 73 rfl, rfl, covers_fp _ _ _ _ _ _ (by decide)⟩

theorem fsqrtS (rd : Reg) (rs1 : Reg) (rm : BitVec 3) : Statement (.fsqrtS rd rs1 rm) :=
  ⟨_, row_mem 74 rfl, rfl, covers_fp1 _ _ _ _ _ _ (by decide)⟩

theorem fsgnjS (rd : Reg) (rs1 : Reg) (rs2 : Reg) : Statement (.fsgnjS rd rs1 rs2) :=
  ⟨_, row_mem 75 rfl, rfl, covers_funct7 _ _ _ _ _ _ (by decide)⟩

theorem fsgnjnS (rd : Reg) (rs1 : Reg) (rs2 : Reg) : Statement (.fsgnjnS rd rs1 rs2) :=
  ⟨_, row_mem 76 rfl, rfl, covers_funct7 _ _ _ _ _ _ (by decide)⟩

theorem fsgnjxS (rd : Reg) (rs1 : Reg) (rs2 : Reg) : Statement (.fsgnjxS rd rs1 rs2) :=
  ⟨_, row_mem 77 rfl, rfl, covers_funct7 _ _ _ _ _ _ (by decide)⟩

theorem fminS (rd : Reg) (rs1 : Reg) (rs2 : Reg) : Statement (.fminS rd rs1 rs2) :=
  ⟨_, row_mem 78 rfl, rfl, covers_funct7 _ _ _ _ _ _ (by decide)⟩

theorem fmaxS (rd : Reg) (rs1 : Reg) (rs2 : Reg) : Statement (.fmaxS rd rs1 rs2) :=
  ⟨_, row_mem 79 rfl, rfl, covers_funct7 _ _ _ _ _ _ (by decide)⟩

theorem fcvtWS (rd : Reg) (rs1 : Reg) (rm : BitVec 3) : Statement (.fcvtWS rd rs1 rm) :=
  ⟨_, row_mem 80 rfl, rfl, covers_fp1 _ _ _ _ _ _ (by decide)⟩

theorem fcvtWuS (rd : Reg) (rs1 : Reg) (rm : BitVec 3) : Statement (.fcvtWuS rd rs1 rm) :=
  ⟨_, row_mem 81 rfl, rfl, covers_fp1 _ _ _ _ _ _ (by decide)⟩

theorem fcvtSW (rd : Reg) (rs1 : Reg) (rm : BitVec 3) : Statement (.fcvtSW rd rs1 rm) :=
  ⟨_, row_mem 82 rfl, rfl, covers_fp1 _ _ _ _ _ _ (by decide)⟩

theorem fcvtSWu (rd : Reg) (rs1 : Reg) (rm : BitVec 3) : Statement (.fcvtSWu rd rs1 rm) :=
  ⟨_, row_mem 83 rfl, rfl, covers_fp1 _ _ _ _ _ _ (by decide)⟩

theorem feqS (rd : Reg) (rs1 : Reg) (rs2 : Reg) : Statement (.feqS rd rs1 rs2) :=
  ⟨_, row_mem 84 rfl, rfl, covers_funct7 _ _ _ _ _ _ (by decide)⟩

theorem fltS (rd : Reg) (rs1 : Reg) (rs2 : Reg) : Statement (.fltS rd rs1 rs2) :=
  ⟨_, row_mem 85 rfl, rfl, covers_funct7 _ _ _ _ _ _ (by decide)⟩

theorem fleS (rd : Reg) (rs1 : Reg) (rs2 : Reg) : Statement (.fleS rd rs1 rs2) :=
  ⟨_, row_mem 86 rfl, rfl, covers_funct7 _ _ _ _ _ _ (by decide)⟩

theorem fclassS (rd : Reg) (rs1 : Reg) : Statement (.fclassS rd rs1) :=
  ⟨_, row_mem 87 rfl, rfl, covers_fclass _ _ _ _ _ _ (by decide)⟩

theorem fmaddS (rd : Reg) (rs1 : Reg) (rs2 : Reg) (rs3 : Reg) (rm : BitVec 3) : Statement (.fmaddS rd rs1 rs2 rs3 rm) :=
  ⟨_, row_mem 88 rfl, rfl, covers_r4 _ _ _ _ _ _ (by decide)⟩

theorem fmsubS (rd : Reg) (rs1 : Reg) (rs2 : Reg) (rs3 : Reg) (rm : BitVec 3) : Statement (.fmsubS rd rs1 rs2 rs3 rm) :=
  ⟨_, row_mem 89 rfl, rfl, covers_r4 _ _ _ _ _ _ (by decide)⟩

theorem fnmsubS (rd : Reg) (rs1 : Reg) (rs2 : Reg) (rs3 : Reg) (rm : BitVec 3) : Statement (.fnmsubS rd rs1 rs2 rs3 rm) :=
  ⟨_, row_mem 90 rfl, rfl, covers_r4 _ _ _ _ _ _ (by decide)⟩

theorem fnmaddS (rd : Reg) (rs1 : Reg) (rs2 : Reg) (rs3 : Reg) (rm : BitVec 3) : Statement (.fnmaddS rd rs1 rs2 rs3 rm) :=
  ⟨_, row_mem 91 rfl, rfl, covers_r4 _ _ _ _ _ _ (by decide)⟩

end Sys2Proof.Laws.TableRow
end

