-- ==== Sys2Proof/Laws/Reach.lean ====
section
/-! SUPPORT. What the data access of an instruction leaves: when it reaches its address (the operand word, the stored
bytes, the UART character, the mirror), and in every case (flags, counters); and the exception a failed one ends in. -/

namespace Sys2Proof.Machine

/-- States are equal when their fields are. -/
theorem State.eq_of_fields {s t : State} (h1 : s.x = t.x) (h2 : s.pc = t.pc) (h3 : s.priv = t.priv) (h4 : s.csr = t.csr)
    (h5 : s.flags = t.flags) (h6 : s.latch = t.latch) (h7 : s.res = t.res) (h8 : s.ptw = t.ptw)
    (h9 : s.stage = t.stage) (h10 : s.instWord = t.instWord) (h11 : s.fetchPaddr = t.fetchPaddr)
    (h12 : s.memop = t.memop) (h13 : s.bus = t.bus) (h14 : s.ctl = t.ctl) (h15 : s.status = t.status)
    (h16 : s.mirror = t.mirror) (h17 : s.slave = t.slave) (h18 : s.uartOut = t.uartOut) (h19 : s.draws = t.draws)
    (h20 : s.cfg = t.cfg) : s = t := by
  cases s; cases t; simp_all

variable (s : State)

/-! ## Every data access -/

theorem preDecode_facts {i : Instr} {m : MemReq} (h : preDecode i s = some m) :
    (m.type = .load ∨ m.type = .store) ∧ (m.kind = .store → m.type = .store) ∧ (m.kind = .load → m.type = .load) ∧
    (m.kind = .amo ∨ m.kind = .load ∨ m.kind = .store) ∧ (m.size = 1 ∨ m.size = 2 ∨ m.size = 4) := by
  cases i <;> simp [preDecode] at h <;> subst h <;> simp [loadReq, storeReq, lrReq, amoReq]

/-- Only time passes among the counters. -/
theorem dataPhase_ctl (m : MemReq) : { (dataPhase m s).ctl with simTime := s.ctl.simTime } = s.ctl := by
  have walk : { (translate (dataStart s) m.va m.type).2.ctl with simTime := s.ctl.simTime } = s.ctl :=
    (congrArg State.ctl (translate_frame (dataStart s) m.va m.type) :)
  rcases dataPhase_cases s m with h | ⟨pa, h⟩ | h | h <;> rw [h]
  · cases m.type <;> rfl
  · unfold dataTransfer flagError
    dsimp only
    split
    · cases hty : m.type <;> rw [hty] at walk <;> simpa [State.setAccessFault, State.tickBy, latchRequest] using walk
    · simpa [State.tickBy, latchRequest] using walk
  · cases hty : m.type <;> rw [hty] at walk <;> exact walk
  · cases hty : m.type <;> rw [hty] at walk <;> exact walk

/-- Only the four data-side fault flags change. -/
theorem dataPhase_flags_frame (m : MemReq) (hty : m.type = .load ∨ m.type = .store) :
    { (dataPhase m s).flags with
      pageFaultLoad := s.flags.pageFaultLoad, pageFaultStore := s.flags.pageFaultStore
      accessFaultLoad := s.flags.accessFaultLoad, accessFaultStore := s.flags.accessFaultStore } = s.flags := by
  have ht : ∀ va ty, (translate (dataStart s) va ty).2.flags = (dataStart s).flags := by simp
  rcases dataPhase_cases s m with e | ⟨pa, e⟩ | e | e <;> rw [e]
  · rcases hty with h | h <;> rw [h] <;> rfl
  · rw [dataTransfer_flags]; split
    · rcases hty with h | h <;> rw [h] <;> simp only [State.setAccessFault] <;> rw [ht] <;> rfl
    · rw [ht]; rfl
  · rcases hty with h | h <;> rw [h] <;> simp only [State.setAccessFault] <;> rw [ht] <;> rfl
  · rcases hty with h | h <;> rw [h] <;> simp only [State.setPageFault] <;> rw [ht] <;> rfl

/-- A failed access ends in the exception its flag asks for, with the address as trap value (R421, R505). -/
theorem exec_failedAccess {i : Instr} {m : MemReq} {e : Exc} (h : preDecode i s = some m)
    (hl : m.type = .load → loadFault (dataPhase m s) = some e)
    (hs : m.type = .store → storeFault (dataPhase m s) = some e) : exec i s = .next (raise e m.va (dataPhase m s)) := by
  have committed : ∀ v, amoCommit (raise e v (dataPhase m s)) = .next (raise e v (dataPhase m s)) := fun v =>
    amoCommit_clear _ (by simp [raise])
  cases i <;> simp only [preDecode, Option.some.injEq, reduceCtorEq] at h <;> subst h
  case lb | lh | lw | lbu | lhu =>
    refine congrArg Host.Outcome.next ((loadBody_fault _ (hl rfl)).trans ?_)
    simp [loadReq, effectiveAddress]
  case sb | sh | sw =>
    refine congrArg Host.Outcome.next ((storeBody_fault _ (hs rfl)).trans ?_)
    simp [storeReq, effectiveAddress]
  case lrW =>
    refine congrArg Host.Outcome.next ((lrBody_fault _ (hl rfl)).trans ?_)
    simp [lrReq]
  case scW =>
    refine (congrArg amoCommit (scBody_fault _ (hs rfl))).trans ?_
    rw [committed]; simp [amoReq]
  all_goals
    refine (congrArg amoCommit (amoBody_fault _ (hs rfl))).trans ?_
    rw [committed]; simp [amoReq]

/-! ## The mirror follows the slave -/

theorem translate_mirror_follows (va : Word) (ty : Access) (h : s.mirror.wf = true) :
    s.mirrorFollows (translate s va ty).2 := by
  intro a
  let R := fun p q : State => p.mirror.wf = true → q.mirror.wf = true ∧ q.slave = p.slave ∧
    (q.mirror.readByte a = p.mirror.readByte a ∨ q.mirror.readByte a = p.slave.mem.readByte a)
  have key : ∀ u pa, R u (pteReadDirect u pa).2 := by
    intro u pa hu
    have hw := Memory.wf_writeWord (a := pa) (d := u.slave.mem.readWord pa) hu
    have hb : (u.mirror.writeWord pa (u.slave.mem.readWord pa)).readByte a = u.mirror.readByte a ∨
        (u.mirror.writeWord pa (u.slave.mem.readWord pa)).readByte a = u.slave.mem.readByte a := by
      rw [Memory.readByte_writeWord hu]
      split
      · right; rw [byteOfWord_readWord _ _ (by omega)]; congr 1; omega
      · left; rfl
    unfold pteReadDirect
    split
    · exact ⟨hu, rfl, .inl rfl⟩
    · split
      · exact ⟨hu, rfl, .inl rfl⟩
      · rw [busRead_eq]
        split <;> simp_all [State.ptwFill, State.tickBy] <;> (obtain ⟨-, rfl⟩ := ‹_ ∧ _›; exact ⟨hw, rfl, hb⟩)
  rw [translate_slave]
  unfold Machine.translate translateWith
  split
  · refine (walk_frame s pteReadDirect R ?_ key va ty (effPriv s ty) h).2.2
    intro p q r h1 h2 hp
    obtain ⟨a1, a2, a3⟩ := h1 hp
    obtain ⟨b1, b2, b3⟩ := h2 a1
    refine ⟨b1, b2.trans a2, ?_⟩
    rw [a2] at b3
    rcases b3 with b3 | b3
    · rw [b3]; exact a3
    · exact .inr b3
  · exact .inl rfl

/-- A read of store type (SC.W, an AMO) after which no fault is found was aligned, reached its address and was answered
without an error. -/
theorem dataPhase_noStoreFault {m : MemReq} (hty : m.type = .store) (hk : m.kind = .amo)
    (h : storeFault (dataPhase m s) = none) : misaligned m.size m.va = false ∧
      s.reaches m.va .store (dataPhase m s).memop.paddr ∧ s.readsOk (dataPhase m s).memop.paddr := by
  cases ha : misaligned m.size m.va with
  | true => rw [dataPhase_misaligned s ha, hty] at h; simp [storeFault, State.setAccessFault] at h
  | false =>
    cases ht : (translate (dataStart s) m.va m.type).1 with
    | ok pa =>
      cases hb : s.inBounds pa with
      | true =>
        rw [dataPhase_ok s ha ht hb] at h ⊢
        rw [dataTransfer_memop]
        refine ⟨rfl, ⟨by rw [← hty, ← translate_dataStart]; exact ht, hb⟩, by_contra fun hr => ?_⟩
        have he : (transact m pa (translate (dataStart s) m.va m.type).2).1 = true := by
          rw [transact_err, hk, if_neg (by decide)]
          simpa [State.readsOk, dataStart] using hr
        have hf := dataTransfer_flags (translate (dataStart s) m.va m.type).2 m pa
        rw [if_pos he, hty] at hf
        unfold storeFault at h
        rw [hty, hf] at h
        simp [State.setAccessFault] at h
      | false => rw [dataPhase_outOfBounds s ha ht hb, hty] at h; simp [storeFault, State.setAccessFault] at h
    | pageFault =>
      rw [dataPhase_pageFault s ha ht, hty] at h
      unfold storeFault at h
      split at h <;> simp_all [State.setPageFault]
    | accessFault => rw [dataPhase_walkFault s ha ht, hty] at h; simp [storeFault, State.setAccessFault] at h
    | pending => exact absurd ht (translate_ne_pending _ _ _)

/-! ## An access that reaches its address -/

section Reaches
variable {m : MemReq} {pa : Word} (ha : m.va.toNat % m.size = 0) (hr : s.reaches m.va m.type pa)
include ha hr

theorem dataPhase_reaches : dataPhase m s = dataTransfer m pa (translate (dataStart s) m.va m.type).2 :=
  dataPhase_ok s (by simp [misaligned, ha]) (by rw [translate_dataStart]; exact hr.1) hr.2

/-- Without an error response no fault flag is set. -/
theorem dataPhase_reaches_flags (hk : m.kind = .store → s.writesOk pa) (hk' : m.kind ≠ .store → s.readsOk pa) :
    (dataPhase m s).flags = (dataStart s).flags := by
  rw [dataPhase_reaches s ha hr, dataTransfer_flags, transact_err]
  simp only [translate_slave, translate_flags]
  have : (if m.kind = .store then (dataStart s).slave.writeErr.contains (wordAddress pa)
      else (dataStart s).slave.readErr.contains (wordAddress pa)) = false := by
    split
    · exact hk ‹_›
    · exact hk' ‹_›
  rw [this]; simp

/-- A read gives the slave's word. -/
theorem dataPhase_reads (hw : s.mirror.wf = true) (hk : m.kind ≠ .store) :
    operandWord (dataPhase m s) = s.slave.mem.readWord pa ∧ (dataPhase m s).memop.paddr = pa ∧
    (dataPhase m s).slave = s.slave ∧ (dataPhase m s).uartOut = s.uartOut ∧ s.mirrorFollows (dataPhase m s) := by
  obtain ⟨h1, h2, h3⟩ := dataTransfer_read (translate (dataStart s) m.va m.type).2 hk pa
  have hwf := translate_mirror_wf (dataStart s) m.va m.type hw
  rw [dataPhase_reaches s ha hr]
  have hp : (dataTransfer m pa (translate (dataStart s) m.va m.type).2).memop.paddr = pa := by simp
  refine ⟨?_, hp, by rw [h1]; simp, by rw [h2]; simp, fun a => ?_⟩
  · unfold operandWord
    rw [hp, h3, Memory.readWord_writeWord hwf]
    simp
  · rw [h3, h1, Memory.readByte_writeWord hwf, translate_slave]
    split
    · right; rw [byteOfWord_readWord _ _ (by omega)]; congr 1; omega
    · have := translate_mirror_follows (dataStart s) m.va m.type hw a
      rw [translate_slave] at this; exact this

variable (hn : m.size = 1 ∨ m.size = 2 ∨ m.size = 4) (hk : m.kind = .store)
include hn hk

/-- A store's bytes in the mirror, whatever the response (D63). -/
theorem dataPhase_stores_mirror (hw : s.mirror.wf = true) (a : Nat) :
    (dataPhase m s).mirror.readByte a =
      if pa.toNat ≤ a ∧ a < pa.toNat + m.size then byteOfWord m.data (a - pa.toNat)
      else (translate (dataStart s) m.va m.type).2.mirror.readByte a := by
  obtain ⟨h1, -, -⟩ := dataTransfer_write (translate (dataStart s) m.va m.type).2 hk pa
  rw [dataPhase_reaches s ha hr, h1]
  exact Memory.readByte_writeAccess (translate_mirror_wf (dataStart s) _ _ hw) _ hn (translate_aligned s hr.1 hn ha) a

/-- A store's bytes in the slave, where the write is answered without an error. -/
theorem dataPhase_stores (hl : s.slave.mem.wf = true) (ho : s.writesOk pa) (a : Nat) :
    (dataPhase m s).slave.mem.readByte a =
      if pa.toNat ≤ a ∧ a < pa.toNat + m.size then byteOfWord m.data (a - pa.toNat)
      else s.slave.mem.readByte a := by
  obtain ⟨-, -, h3⟩ := dataTransfer_write (translate (dataStart s) m.va m.type).2 hk pa
  have e : (translate (dataStart s) m.va m.type).2.slave = s.slave := by simp
  rw [dataPhase_reaches s ha hr, h3, e, if_neg (by rw [ho]; simp)]
  exact Memory.readByte_writeAccess hl _ hn (translate_aligned s hr.1 hn ha) a

end Reaches

/-! ## The UART character of an access (R465) -/

theorem wordAddress_eq_iff (a b : Word) : wordAddress a = wordAddress b ↔ wordBase a = wordBase b := by
  have h : ∀ w : Word, wordAddress w = BitVec.ofNat 32 (wordBase w) := by
    intro w
    unfold wordAddress wordBase
    apply BitVec.eq_of_toNat_eq
    have : w &&& 4294967292#32 = w >>> 2 <<< 2 := by
      apply BitVec.eq_of_getLsbD_eq; intro i hi
      have : (4294967292#32 : Word).getLsbD i = decide (2 ≤ i) := by
        have : i < 32 := hi
        revert i; decide
      rw [BitVec.getLsbD_and, this]; simp [hi]
      by_cases h2 : 2 ≤ i
      · have : 2 + (i - 2) = i := by omega
        have h3 : ¬i ≤ 1 := by omega
        simp [h2, this, h3]; rw [BitVec.getLsbD_eq_getElem]
      · simp [h2]; intro h; omega
    have hlt := w.isLt
    rw [this]; simp [Nat.shiftRight_eq_div_pow, Nat.shiftLeft_eq]
  rw [h, h]
  constructor
  · intro e
    have := congrArg BitVec.toNat e
    have h1 := wordBase_lt a 0 (by omega)
    have h2 := wordBase_lt b 0 (by omega)
    simp at this; omega
  · intro e; rw [e]

theorem uartByte_access (cfg : Config) {pa : Word} {n : Nat} (hn : n = 1 ∨ n = 2 ∨ n = 4) (ha : pa.toNat % n = 0)
    (v : Word) : uartByte cfg pa (laneData n v pa) (laneStrobe n pa) =
      if pa.toNat ≤ cfg.uartBase.toNat ∧ cfg.uartBase.toNat < pa.toNat + n then
        some (v.extractLsb' (8 * (cfg.uartBase.toNat - pa.toNat)) 8)
      else none := by
  unfold uartByte
  generalize cfg.uartBase = u
  dsimp only
  by_cases hc : wordBase pa = wordBase u
  · have hb := wordBase_add u
    have hs := laneStrobe_getLsbD hn ha (k := u.toNat % 4) (by omega)
    rw [hc, hb] at hs
    rw [hs]
    by_cases hi : pa.toNat ≤ u.toNat ∧ u.toNat < pa.toNat + n
    · rw [if_pos (by simpa [wordAddress_eq_iff, hc] using hi), if_pos hi]
      have := laneData_byte (v := v) hn ha (k := u.toNat - pa.toNat) (by omega)
      rw [show v.extractLsb' (8 * (u.toNat - pa.toNat)) 8 = byteOfWord v (u.toNat - pa.toNat) from rfl, ← this]
      have := wordBase_add pa
      congr 2; omega
    · rw [if_neg (by simpa [wordAddress_eq_iff, hc] using hi), if_neg hi]
  · rw [if_neg (by simp [wordAddress_eq_iff, hc]), if_neg]
    unfold wordBase at hc
    rcases hn with rfl | rfl | rfl <;> omega

theorem dataPhase_stores_uart {m : MemReq} {pa : Word} (ha : m.va.toNat % m.size = 0)
    (hr : s.reaches m.va m.type pa) (hn : m.size = 1 ∨ m.size = 2 ∨ m.size = 4) (hk : m.kind = .store) :
    (dataPhase m s).uartOut = s.uartAfter pa m.size m.data := by
  obtain ⟨-, h2, -⟩ := dataTransfer_write (translate (dataStart s) m.va m.type).2 hk pa
  rw [dataPhase_reaches s ha hr, h2, uartByte_access _ hn (translate_aligned s hr.1 hn ha)]
  unfold State.uartAfter
  simp only [translate_cfg, translate_uartOut, show (dataStart s).cfg = s.cfg from rfl,
    show (dataStart s).uartOut = s.uartOut from rfl]
  split <;> simp

end Sys2Proof.Machine
end

