-- ==== Sys2Proof/Tests/Slice0.lean ====
section
/-! SUPPORT. The model's own tests. Every expected value is the spec's: the encodings of R142 and the opcode table, the
vectors V and T of spec/95. Then, for every obligation with hypotheses, a state and operands that meet them. -/

open Sys2Proof Sys2Proof.Machine

namespace Sys2Proof.Tests

/-! ## Ill-formed terms are refused -/

theorem test_wellFormed_odd_branch_offset :
    Instr.wellFormed (.beq 1#5 2#5 3#13) = false ∧ Instr.wellFormed (.bgeu 1#5 2#5 (-1#13)) = false ∧
    Instr.wellFormed (.blt 1#5 2#5 (-4096#13)) = true := by decide

theorem test_wellFormed_odd_jal_offset :
    Instr.wellFormed (.jal 1#5 5#21) = false ∧ Instr.wellFormed (.jal 1#5 6#21) = true := by decide

theorem test_wellFormed_reserved_rounding_mode :
    Instr.wellFormed (.faddS 1#5 2#5 3#5 5#3) = false ∧ Instr.wellFormed (.fcvtWS 1#5 2#5 6#3) = false ∧
    Instr.wellFormed (.fmaddS 1#5 2#5 3#5 4#5 6#3) = false ∧ Instr.wellFormed (.fsqrtS 1#5 2#5 7#3) = true := by decide

/-! ## Decoding: every constructor, its word written field by field from R142 and the opcode table -/

theorem test_decode_upper_and_jump :
    decode 0b10001111001011000001_00011_0110111#32 = .ok (.lui 3#5 0x8f2c1#20) ∧
    decode 0b10001100000111110010_01000_0010111#32 = .ok (.auipc 8#5 0x8c1f2#20) ∧
    decode 0b1_0110010001_0_01010100_01101_1101111#32 = .ok (.jal 13#5 (-703710#21)) ∧
    decode 0b011111111111_00110_000_10010_1100111#32 = .ok (.jalr 18#5 6#5 (2047#12)) := by decide

theorem test_decode_branches :
    decode 0b1_010010_11110_10001_000_1101_1_1100011#32 = .ok (.beq 17#5 30#5 (-1446#13)) ∧
    decode 0b0_100101_11011_11000_001_1010_1_1100011#32 = .ok (.bne 24#5 27#5 3252#13) ∧
    decode 0b1_000000_11000_11111_100_0000_0_1100011#32 = .ok (.blt 31#5 24#5 (-4096#13)) ∧
    decode 0b0_111111_10101_00110_101_1111_1_1100011#32 = .ok (.bge 6#5 21#5 4094#13) ∧
    decode 0b1_111111_10010_01101_110_1111_1_1100011#32 = .ok (.bltu 13#5 18#5 (-2#13)) ∧
    decode 0b0_000001_01111_10100_111_0010_1_1100011#32 = .ok (.bgeu 20#5 15#5 2084#13) := by decide

theorem test_decode_loads_and_stores :
    decode 0b011110100101_10001_000_00011_0000011#32 = .ok (.lb 3#5 17#5 (1957#12)) ∧
    decode 0b101001011010_11000_001_01000_0000011#32 = .ok (.lh 8#5 24#5 (-1446#12)) ∧
    decode 0b111111111111_11111_010_01101_0000011#32 = .ok (.lw 13#5 31#5 (-1#12)) ∧
    decode 0b011111111111_00110_100_10010_0000011#32 = .ok (.lbu 18#5 6#5 (2047#12)) ∧
    decode 0b100000000000_01101_101_10111_0000011#32 = .ok (.lhu 23#5 13#5 (-2048#12)) ∧
    decode 0b1000000_01111_10100_000_00000_0100011#32 = .ok (.sb 20#5 15#5 (-2048#12)) ∧
    decode 0b1010010_01100_11011_001_11011_0100011#32 = .ok (.sh 27#5 12#5 (-1445#12)) ∧
    decode 0b0111110_01001_00010_010_00011_0100011#32 = .ok (.sw 2#5 9#5 (1987#12)) := by decide

theorem test_decode_immediates :
    decode 0b011110100101_10001_000_00011_0010011#32 = .ok (.addi 3#5 17#5 (1957#12)) ∧
    decode 0b101001011010_11000_010_01000_0010011#32 = .ok (.slti 8#5 24#5 (-1446#12)) ∧
    decode 0b111111111111_11111_011_01101_0010011#32 = .ok (.sltiu 13#5 31#5 (-1#12)) ∧
    decode 0b011111111111_00110_100_10010_0010011#32 = .ok (.xori 18#5 6#5 (2047#12)) ∧
    decode 0b100000000000_01101_110_10111_0010011#32 = .ok (.ori 23#5 13#5 (-2048#12)) ∧
    decode 0b000000000001_10100_111_11100_0010011#32 = .ok (.andi 28#5 20#5 (1#12)) ∧
    decode 0b0000000_11111_11011_001_00001_0010011#32 = .ok (.slli 1#5 27#5 31#5) ∧
    decode 0b0000000_00001_00010_101_00110_0010011#32 = .ok (.srli 6#5 2#5 1#5) ∧
    decode 0b0100000_10110_01001_101_01011_0010011#32 = .ok (.srai 11#5 9#5 22#5) := by decide

theorem test_decode_registers :
    decode 0b0000000_11110_10001_000_00011_0110011#32 = .ok (.add 3#5 17#5 30#5) ∧
    decode 0b0100000_11011_11000_000_01000_0110011#32 = .ok (.sub 8#5 24#5 27#5) ∧
    decode 0b0000000_11000_11111_001_01101_0110011#32 = .ok (.sll 13#5 31#5 24#5) ∧
    decode 0b0000000_10101_00110_010_10010_0110011#32 = .ok (.slt 18#5 6#5 21#5) ∧
    decode 0b0000000_10010_01101_011_10111_0110011#32 = .ok (.sltu 23#5 13#5 18#5) ∧
    decode 0b0000000_01111_10100_100_11100_0110011#32 = .ok (.xor 28#5 20#5 15#5) ∧
    decode 0b0000000_01100_11011_101_00001_0110011#32 = .ok (.srl 1#5 27#5 12#5) ∧
    decode 0b0100000_01001_00010_101_00110_0110011#32 = .ok (.sra 6#5 2#5 9#5) ∧
    decode 0b0000000_00110_01001_110_01011_0110011#32 = .ok (.or 11#5 9#5 6#5) ∧
    decode 0b0000000_00011_10000_111_10000_0110011#32 = .ok (.and 16#5 16#5 3#5) := by decide

theorem test_decode_system :
    decode 0b1000_0011_0101_10001_000_00011_0001111#32 = .ok (.fence 8#4 3#4 5#4 17#5 3#5) ∧
    decode 0b010110100011_11000_001_01000_0001111#32 = .ok (.fenceI 0x5a3#12 24#5 8#5) ∧
    decode 0b000000000000_00000_000_00000_1110011#32 = .ok .ecall ∧
    decode 0b000000000001_00000_000_00000_1110011#32 = .ok .ebreak ∧
    decode 0b000100000010_00000_000_00000_1110011#32 = .ok .sret ∧
    decode 0b001100000010_00000_000_00000_1110011#32 = .ok .mret ∧
    decode 0b000100000101_00000_000_00000_1110011#32 = .ok .wfi ∧
    decode 0b0001001_01001_00010_000_00000_1110011#32 = .ok (.sfenceVma 2#5 9#5) := by decide

theorem test_decode_multiply_divide :
    decode 0b0000001_11110_10001_000_00011_0110011#32 = .ok (.mul 3#5 17#5 30#5) ∧
    decode 0b0000001_11011_11000_001_01000_0110011#32 = .ok (.mulh 8#5 24#5 27#5) ∧
    decode 0b0000001_11000_11111_010_01101_0110011#32 = .ok (.mulhsu 13#5 31#5 24#5) ∧
    decode 0b0000001_10101_00110_011_10010_0110011#32 = .ok (.mulhu 18#5 6#5 21#5) ∧
    decode 0b0000001_10010_01101_100_10111_0110011#32 = .ok (.div 23#5 13#5 18#5) ∧
    decode 0b0000001_01111_10100_101_11100_0110011#32 = .ok (.divu 28#5 20#5 15#5) ∧
    decode 0b0000001_01100_11011_110_00001_0110011#32 = .ok (.rem 1#5 27#5 12#5) ∧
    decode 0b0000001_01001_00010_111_00110_0110011#32 = .ok (.remu 6#5 2#5 9#5) := by decide

theorem test_decode_atomics :
    decode 0b00010_0_0_00000_10001_010_00011_0101111#32 = .ok (.lrW 3#5 17#5 false false) ∧
    decode 0b00011_1_0_11011_11000_010_01000_0101111#32 = .ok (.scW 8#5 24#5 27#5 true false) ∧
    decode 0b00001_0_1_11000_11111_010_01101_0101111#32 = .ok (.amoswapW 13#5 31#5 24#5 false true) ∧
    decode 0b00000_1_1_10101_00110_010_10010_0101111#32 = .ok (.amoaddW 18#5 6#5 21#5 true true) ∧
    decode 0b00100_0_0_10010_01101_010_10111_0101111#32 = .ok (.amoxorW 23#5 13#5 18#5 false false) ∧
    decode 0b01100_1_0_01111_10100_010_11100_0101111#32 = .ok (.amoandW 28#5 20#5 15#5 true false) ∧
    decode 0b01000_0_1_01100_11011_010_00001_0101111#32 = .ok (.amoorW 1#5 27#5 12#5 false true) ∧
    decode 0b10000_1_1_01001_00010_010_00110_0101111#32 = .ok (.amominW 6#5 2#5 9#5 true true) ∧
    decode 0b10100_0_0_00110_01001_010_01011_0101111#32 = .ok (.amomaxW 11#5 9#5 6#5 false false) ∧
    decode 0b11000_1_0_00011_10000_010_10000_0101111#32 = .ok (.amominuW 16#5 16#5 3#5 true false) ∧
    decode 0b11100_0_1_00000_10111_010_10101_0101111#32 = .ok (.amomaxuW 21#5 23#5 0#5 false true) := by decide

theorem test_decode_csr :
    decode 0b001101000010_10001_001_00011_1110011#32 = .ok (.csrrw 3#5 17#5 0x342#12) ∧
    decode 0b001101000010_11000_010_01000_1110011#32 = .ok (.csrrs 8#5 24#5 0x342#12) ∧
    decode 0b001101000010_11111_011_01101_1110011#32 = .ok (.csrrc 13#5 31#5 0x342#12) ∧
    decode 0b110010000001_00110_101_10010_1110011#32 = .ok (.csrrwi 18#5 6#5 0xc81#12) ∧
    decode 0b110010000001_01101_110_10111_1110011#32 = .ok (.csrrsi 23#5 13#5 0xc81#12) ∧
    decode 0b110010000001_10100_111_11100_1110011#32 = .ok (.csrrci 28#5 20#5 0xc81#12) := by decide

theorem test_decode_float_arithmetic :
    decode 0b0000000_11110_10001_000_00011_1010011#32 = .ok (.faddS 3#5 17#5 30#5 0#3) ∧
    decode 0b0000100_11011_11000_001_01000_1010011#32 = .ok (.fsubS 8#5 24#5 27#5 1#3) ∧
    decode 0b0001000_11000_11111_010_01101_1010011#32 = .ok (.fmulS 13#5 31#5 24#5 2#3) ∧
    decode 0b0001100_10101_00110_011_10010_1010011#32 = .ok (.fdivS 18#5 6#5 21#5 3#3) ∧
    decode 0b0101100_00000_01101_100_10111_1010011#32 = .ok (.fsqrtS 23#5 13#5 4#3) ∧
    decode 0b00000_00_01111_10100_111_11100_1000011#32 = .ok (.fmaddS 28#5 20#5 15#5 0#5 7#3) ∧
    decode 0b01011_00_01100_11011_000_00001_1000111#32 = .ok (.fmsubS 1#5 27#5 12#5 11#5 0#3) ∧
    decode 0b10110_00_01001_00010_001_00110_1001011#32 = .ok (.fnmsubS 6#5 2#5 9#5 22#5 1#3) ∧
    decode 0b00001_00_00110_01001_010_01011_1001111#32 = .ok (.fnmaddS 11#5 9#5 6#5 1#5 2#3) := by decide

theorem test_decode_float_other :
    decode 0b0010000_11110_10001_000_00011_1010011#32 = .ok (.fsgnjS 3#5 17#5 30#5) ∧
    decode 0b0010000_11011_11000_001_01000_1010011#32 = .ok (.fsgnjnS 8#5 24#5 27#5) ∧
    decode 0b0010000_11000_11111_010_01101_1010011#32 = .ok (.fsgnjxS 13#5 31#5 24#5) ∧
    decode 0b0010100_10101_00110_000_10010_1010011#32 = .ok (.fminS 18#5 6#5 21#5) ∧
    decode 0b0010100_10010_01101_001_10111_1010011#32 = .ok (.fmaxS 23#5 13#5 18#5) ∧
    decode 0b1010000_01111_10100_010_11100_1010011#32 = .ok (.feqS 28#5 20#5 15#5) ∧
    decode 0b1010000_01100_11011_001_00001_1010011#32 = .ok (.fltS 1#5 27#5 12#5) ∧
    decode 0b1010000_01001_00010_000_00110_1010011#32 = .ok (.fleS 6#5 2#5 9#5) ∧
    decode 0b1110000_00000_01001_001_01011_1010011#32 = .ok (.fclassS 11#5 9#5) ∧
    decode 0b1100000_00000_10000_011_10000_1010011#32 = .ok (.fcvtWS 16#5 16#5 3#3) ∧
    decode 0b1100000_00001_10111_100_10101_1010011#32 = .ok (.fcvtWuS 21#5 23#5 4#3) ∧
    decode 0b1101000_00000_11110_111_11010_1010011#32 = .ok (.fcvtSW 26#5 30#5 7#3) ∧
    decode 0b1101000_00001_00101_000_11111_1010011#32 = .ok (.fcvtSWu 31#5 5#5 0#3) := by decide

/-- V23, V157, V225 to V230, V331, V403: words of no row decode to nothing. -/
theorem test_decode_rejects :
    (decode 0x00000000#32).isOk = false ∧ (decode 0xffffffff#32).isOk = false ∧ (decode 0x00010001#32).isOk = false ∧
    (decode 0x02011093#32).isOk = false ∧ (decode 0x101323af#32).isOk = false ∧ (decode 0x00052007#32).isOk = false ∧
    (decode 0x0220f053#32).isOk = false ∧ (decode 0x581081d3#32).isOk = false ∧ (decode 0x1a208243#32).isOk = false ∧
    (decode 0x00200073#32).isOk = false := by decide

theorem test_decodeTableWord :
    decodeTableWord 32 0x002081b3 = some (.add 3#5 1#5 2#5) ∧ decodeTableWord 32 0 = none := by decide

/-! ## One step of each instruction -/

/-- The vectors' usual state: after reset, pc at the image. -/
def base : State := { State.reset with pc := 0x80000000#32 }

def atPc (pc : Word) : State := { base with pc := pc }

def withRegs (s : State) (l : List (Reg × Word)) : State := l.foldl (fun t p => t.setReg p.1 p.2) s

def regs (l : List (Reg × Word)) : State := withRegs base l

def withCsr (s : State) (f : Csrs → Csrs) : State := { s with csr := f s.csr }

/-- `v` as the slave's word at `a`. -/
def withWord (s : State) (a v : Word) : State := { s with slave.mem := s.slave.mem.writeWord a v }

def withRes (s : State) (a : Word) : State := { s with res := { valid := true, addr := a } }

/-- The state after one step that runs `w` satisfies `p`. -/
def ran (s : State) (w : Nat) (p : State → Bool) : Bool :=
  match step (s.withFetchWord 32 w) with
  | .next t => p t
  | .fault _ => false
  | .refused _ => false

def jumps (s : State) (w : Nat) (rd : Reg) (v pc : Word) : Bool := ran s w fun t => t.reg rd == v && t.pc == pc

def writes (s : State) (w : Nat) (rd : Reg) (v : Word) : Bool := jumps s w rd v (s.pc + 4#32)

/-- Trap entry into M-mode with `mtvec = 0`. -/
def traps (s : State) (w : Nat) (cause : Nat) (tval : Word) : Bool :=
  ran s w fun t => t.csr.mcause == BitVec.ofNat 32 cause && t.csr.mtval == tval && t.csr.mepc == s.pc && t.pc == 0#32 &&
    t.priv == .m && t.x == s.x

/-- The slave's word at `a` after the step, pc + 4. -/
def leaves (s : State) (w : Nat) (a v : Word) : Bool :=
  ran s w fun t => t.slave.mem.readWord a == v && t.pc == s.pc + 4#32

/-- A load into x7 from the word of spec/95 section 2.3. -/
def loads (w : Nat) (v : Word) : Bool :=
  writes (withWord (regs [(6#5, 0x80001000#32)]) 0x80001000#32 0x8877f280#32) w 7#5 v

def storing : State := regs [(5#5, 0xaabbccdd#32), (6#5, 0x80001000#32)]

/-- An AMO on the word 0xfffffffe with 3 in x5: the old word in x7, `new` in memory. -/
def swaps (w : Nat) (new : Word) : Bool :=
  ran (withWord (regs [(5#5, 3#32), (6#5, 0x80001000#32)]) 0x80001000#32 0xfffffffe#32) w fun t =>
    t.reg 7#5 == 0xfffffffe#32 && t.slave.mem.readWord 0x80001000#32 == new

/-! ### Integer computation -/

/-- V1. -/
theorem test_lui : writes base 0xdeadc2b7 5#5 0xdeadc000#32 := by decide

/-- V4, from pc 0x80000000. -/
theorem test_auipc : writes base 0xfffff097 1#5 0x7ffff000#32 := by decide

/-- V6. -/
theorem test_addi : writes (regs [(2#5, 0x7fffffff#32)]) 0x00110093 1#5 0x80000000#32 := by decide

/-- V8. -/
theorem test_slti : writes (regs [(2#5, 0x80000000#32)]) 0xfff12093 1#5 0x1#32 := by decide

/-- V10. -/
theorem test_sltiu : writes (regs [(2#5, 0xfffffffe#32)]) 0xfff13093 1#5 0x1#32 := by decide

/-- V13. -/
theorem test_xori : writes (regs [(2#5, 0xf0f0f0f#32)]) 0xfff14093 1#5 0xf0f0f0f0#32 := by decide

/-- V15. -/
theorem test_ori : writes (regs [(2#5, 0x1#32)]) 0x80016093 1#5 0xfffff801#32 := by decide

/-- V17. -/
theorem test_andi : writes (regs [(2#5, 0x12345678#32)]) 0xff017093 1#5 0x12345670#32 := by decide

/-- V18. -/
theorem test_slli : writes (regs [(2#5, 0x3#32)]) 0x01f11093 1#5 0x80000000#32 := by decide

/-- V20. -/
theorem test_srli : writes (regs [(2#5, 0x80000000#32)]) 0x00415093 1#5 0x8000000#32 := by decide

/-- V21. -/
theorem test_srai : writes (regs [(2#5, 0x80000000#32)]) 0x40415093 1#5 0xf8000000#32 := by decide

/-- V24. -/
theorem test_add :
    writes (regs [(1#5, 0x7fffffff#32), (2#5, 0x80000001#32)]) 0x002081b3 3#5 0x0#32 := by decide

/-- V25. -/
theorem test_sub :
    writes (regs [(1#5, 0x7fffffff#32), (2#5, 0x80000001#32)]) 0x402081b3 3#5 0xfffffffe#32 := by decide

/-- V34. -/
theorem test_sll_amount_32 :
    writes (regs [(1#5, 0x1#32), (2#5, 0x20#32)]) 0x002091b3 3#5 0x1#32 := by decide

/-- V27. -/
theorem test_slt :
    writes (regs [(1#5, 0x7fffffff#32), (2#5, 0x80000001#32)]) 0x0020a1b3 3#5 0x0#32 := by decide

/-- V28. -/
theorem test_sltu :
    writes (regs [(1#5, 0x7fffffff#32), (2#5, 0x80000001#32)]) 0x0020b1b3 3#5 0x1#32 := by decide

/-- V29. -/
theorem test_xor :
    writes (regs [(1#5, 0x7fffffff#32), (2#5, 0x80000001#32)]) 0x0020c1b3 3#5 0xfffffffe#32 := by decide

/-- V30. -/
theorem test_srl :
    writes (regs [(1#5, 0x7fffffff#32), (2#5, 0x80000001#32)]) 0x0020d1b3 3#5 0x3fffffff#32 := by decide

/-- V35. -/
theorem test_sra_amount_masked :
    writes (regs [(1#5, 0xf0000000#32), (2#5, 0xffffffe4#32)]) 0x4020d1b3 3#5 0xff000000#32 := by decide

/-- V32. -/
theorem test_or :
    writes (regs [(1#5, 0x7fffffff#32), (2#5, 0x80000001#32)]) 0x0020e1b3 3#5 0xffffffff#32 := by decide

/-- V33. -/
theorem test_and :
    writes (regs [(1#5, 0x7fffffff#32), (2#5, 0x80000001#32)]) 0x0020f1b3 3#5 0x1#32 := by decide

/-- V37. -/
theorem test_add_to_x0 :
    writes (regs [(1#5, 0x1#32), (2#5, 0x2#32)]) 0x00208033 0#5 0x0#32 := by decide

/-- V38. -/
theorem test_add_source_is_destination :
    writes (regs [(1#5, 0x80000000#32)]) 0x001080b3 1#5 0x0#32 := by decide

/-! ### Multiply and divide -/

/-- V100. -/
theorem test_mul :
    writes (regs [(1#5, 0x7#32), (2#5, 0xfffffffd#32)]) 0x022081b3 3#5 0xffffffeb#32 := by decide

/-- V105. -/
theorem test_mulh :
    writes (regs [(1#5, 0x7#32), (2#5, 0xfffffffd#32)]) 0x022091b3 3#5 0xffffffff#32 := by decide

/-- V111. -/
theorem test_mulhsu :
    writes (regs [(1#5, 0x80000000#32), (2#5, 0xffffffff#32)]) 0x0220a1b3 3#5 0x80000000#32 := by decide

/-- V116. -/
theorem test_mulhu :
    writes (regs [(1#5, 0x80000000#32), (2#5, 0xffffffff#32)]) 0x0220b1b3 3#5 0x7fffffff#32 := by decide

/-- V120. -/
theorem test_div :
    writes (regs [(1#5, 0x7#32), (2#5, 0xfffffffd#32)]) 0x0220c1b3 3#5 0xfffffffe#32 := by decide

/-- V121. -/
theorem test_div_overflow :
    writes (regs [(1#5, 0x80000000#32), (2#5, 0xffffffff#32)]) 0x0220c1b3 3#5 0x80000000#32 := by decide

/-- V127. -/
theorem test_divu_by_zero :
    writes (regs [(1#5, 0x12345678#32), (2#5, 0x0#32)]) 0x0220d1b3 3#5 0xffffffff#32 := by decide

/-- V130. -/
theorem test_rem :
    writes (regs [(1#5, 0x7#32), (2#5, 0xfffffffd#32)]) 0x0220e1b3 3#5 0x1#32 := by decide

/-- V132. -/
theorem test_rem_by_zero :
    writes (regs [(1#5, 0x12345678#32), (2#5, 0x0#32)]) 0x0220e1b3 3#5 0x12345678#32 := by decide

/-- V136. -/
theorem test_remu :
    writes (regs [(1#5, 0x80000000#32), (2#5, 0xffffffff#32)]) 0x0220f1b3 3#5 0x80000000#32 := by decide

/-! ### Control transfer -/

/-- V42. -/
theorem test_jal : jumps (atPc 0x80100000#32) 0x800000ef 1#5 0x80100004#32 0x80000000#32 := by decide

/-- V43. -/
theorem test_jal_misaligned : traps base 0x002000ef 0 0x80000002#32 := by decide

/-- V45. -/
theorem test_jalr_source_is_destination :
    jumps (regs [(5#5, 0x80000101#32)]) 0xfff282e7 5#5 0x80000004#32 0x80000100#32 := by decide

/-- V47. -/
theorem test_jalr_misaligned :
    traps (regs [(5#5, 0x80000100#32)]) 0x002280e7 0 0x80000102#32 := by decide

/-- V49. -/
theorem test_beq :
    jumps (withRegs (atPc 0x80000020#32) [(1#5, 0x7#32), (2#5, 0x7#32)]) 0xfe208ce3 0#5 0x0#32 0x80000018#32 := by
  decide

/-- V50. -/
theorem test_bne :
    jumps (regs [(1#5, 0xffffffff#32), (2#5, 0x1#32)]) 0x00209863 0#5 0x0#32 0x80000010#32 := by decide

/-- V61. -/
theorem test_bne_not_taken_misaligned :
    jumps base 0x00001163 0#5 0x0#32 0x80000004#32 := by decide

/-- V52. -/
theorem test_blt :
    jumps (regs [(1#5, 0xffffffff#32), (2#5, 0x1#32)]) 0x0020c863 0#5 0x0#32 0x80000010#32 := by decide

/-- V54. -/
theorem test_bge :
    jumps (regs [(1#5, 0xffffffff#32), (2#5, 0x1#32)]) 0x0020d863 0#5 0x0#32 0x80000004#32 := by decide

/-- V56. -/
theorem test_bltu :
    jumps (regs [(1#5, 0xffffffff#32), (2#5, 0x1#32)]) 0x0020e863 0#5 0x0#32 0x80000004#32 := by decide

/-- V59. -/
theorem test_bgeu :
    jumps (withRegs (atPc 0x80000020#32) [(1#5, 0x7#32), (2#5, 0x7#32)]) 0xfe20fce3 0#5 0x0#32 0x80000018#32 := by
  decide

/-- V60. -/
theorem test_beq_misaligned : traps base 0x00000363 0 0x80000006#32 := by decide

/-! ### Loads and stores -/

/-- V72. -/
theorem test_lb : loads 0x00330383 0xffffff88#32 := by decide

/-- V76. -/
theorem test_lh : loads 0x00231383 0xffff8877#32 := by decide

/-- V79. -/
theorem test_lw : loads 0x00032383 0x8877f280#32 := by decide

/-- V73. -/
theorem test_lbu : loads 0x00134383 0xf2#32 := by decide

/-- V78. -/
theorem test_lhu : loads 0x00235383 0x8877#32 := by decide

/-- V82. -/
theorem test_lh_misaligned :
    traps (regs [(6#5, 0x80001000#32)]) 0x00131383 5 0x80001001#32 := by decide

/-- V87; the other lanes keep their bytes. -/
theorem test_sb :
    leaves (withWord storing 0x80001000#32 0x11223344#32)
      0x005301a3 0x80001000#32 0xdd223344#32 := by decide

/-- V89; the other lanes keep their bytes. -/
theorem test_sh :
    leaves (withWord storing 0x80001000#32 0x11223344#32)
      0x00531123 0x80001000#32 0xccdd3344#32 := by decide

/-- V91; the other lanes keep their bytes. -/
theorem test_sw :
    leaves (withWord storing 0x80000ffc#32 0x11223344#32)
      0xfe532e23 0x80000ffc#32 0xaabbccdd#32 := by decide

/-- V93. -/
theorem test_sw_misaligned :
    traps (regs [(6#5, 0x80001000#32)]) 0x00532123 7 0x80001002#32 := by decide

/-! ### LR.W, SC.W, AMOs -/

/-- V150. -/
theorem test_lrW :
    ran (withWord (regs [(6#5, 0x80001000#32)]) 0x80001000#32 0x11#32) 0x100323af
      (fun t => t.reg 7#5 == 0x11#32 && t.res == { valid := true, addr := 0x80001000#32 }) := by decide

/-- V152. -/
theorem test_scW_success :
    ran (withRes (regs [(5#5, 0x22#32), (6#5, 0x80001000#32)]) 0x80001000#32) 0x1853242f
      (fun t => t.reg 8#5 == 0#32 && t.slave.mem.readWord 0x80001000#32 == 0x22#32 && !t.res.valid) := by decide

/-- V154. -/
theorem test_scW_other_address :
    ran (withWord (withRes (regs [(5#5, 0x22#32), (6#5, 0x80001000#32)]) 0x80001004#32) 0x80001000#32 0x11#32) 0x1853242f
      (fun t => t.reg 8#5 == 1#32 && t.slave.mem.readWord 0x80001000#32 == 0x11#32 && !t.res.valid) := by decide

/-- V158. -/
theorem test_amoswapW : swaps 0x085323af 0x3#32 := by decide

/-- V159. -/
theorem test_amoaddW : swaps 0x005323af 0x1#32 := by decide

/-- V160. -/
theorem test_amoxorW : swaps 0x205323af 0xfffffffd#32 := by decide

/-- V161. -/
theorem test_amoandW : swaps 0x605323af 0x2#32 := by decide

/-- V162. -/
theorem test_amoorW : swaps 0x405323af 0xffffffff#32 := by decide

/-- V163. -/
theorem test_amominW : swaps 0x805323af 0xfffffffe#32 := by decide

/-- V164. -/
theorem test_amomaxW : swaps 0xa05323af 0x3#32 := by decide

/-- V165. -/
theorem test_amominuW : swaps 0xc05323af 0x3#32 := by decide

/-- V166. -/
theorem test_amomaxuW : swaps 0xe05323af 0xfffffffe#32 := by decide

/-- V169. -/
theorem test_amoorW_misaligned :
    traps (regs [(6#5, 0x80001003#32)]) 0x405323af 7 0x80001003#32 := by decide

/-! ### CSR instructions -/

/-- V180. -/
theorem test_csrrw :
    ran (withRegs (withCsr base (fun c => { c with mscratch := 0x11#32 })) [(2#5, 0xcafef00d#32)]) 0x340110f3
      (fun t => t.reg 1#5 == 0x11#32 && t.csr.mscratch == 0xcafef00d#32 && t.pc == 0x80000004#32) := by decide

/-- V186. -/
theorem test_csrrw_reserved_mpp :
    ran (withRegs (withCsr base (fun c => { c with mstatus := 0x800#32 })) [(2#5, 0x1000#32)]) 0x30011073
      (fun t => t.reg 0#5 == 0x0#32 && t.csr.mstatus == 0x800#32 && t.pc == 0x80000004#32) := by decide

/-- V184. -/
theorem test_csrrs :
    ran (withRegs (base) [(2#5, 0xffffffff#32)]) 0x300120f3
      (fun t => t.reg 1#5 == 0x0#32 && t.csr.mstatus == 0xe19aa#32 && t.pc == 0x80000004#32) := by decide

/-- V185. -/
theorem test_csrrc :
    ran (withRegs (withCsr base (fun c => { c with mstatus := 0x19aa#32 })) [(2#5, 0x88#32)]) 0x300130f3
      (fun t => t.reg 1#5 == 0x19aa#32 && t.csr.mstatus == 0x1922#32 && t.pc == 0x80000004#32) := by decide

/-- V187. -/
theorem test_csrrwi :
    ran (withCsr base (fun c => { c with mscratch := 0x11#32 })) 0x340fd0f3
      (fun t => t.reg 1#5 == 0x11#32 && t.csr.mscratch == 0x1f#32 && t.pc == 0x80000004#32) := by decide

/-- V188. -/
theorem test_csrrsi :
    ran (base) 0x30046073
      (fun t => t.reg 0#5 == 0x0#32 && t.csr.mstatus == 0x8#32 && t.pc == 0x80000004#32) := by decide

/-- V189. -/
theorem test_csrrci :
    ran (withCsr base (fun c => { c with mstatus := 0x88#32 })) 0x30047073
      (fun t => t.reg 0#5 == 0x0#32 && t.csr.mstatus == 0x80#32 && t.pc == 0x80000004#32) := by decide

/-- V192. -/
theorem test_csrrs_read_only : traps base 0xf14120f3 2 0xf14120f3#32 := by decide

/-- V203. -/
theorem test_csrrs_no_such_csr : traps base 0x003020f3 2 0x3020f3#32 := by decide

/-! ### System instructions, undecodable words, interrupts -/

/-- V210, V211, V222. -/
theorem test_fence_fenceI_wfi :
    writes base 0x0ff0000f 0#5 0#32 ∧ writes base 0x0000100f 0#5 0#32 ∧
    writes { base with priv := .u } 0x10500073 0#5 0#32 := by decide

/-- V212. -/
theorem test_ecall :
    ran (withCsr (atPc 0x80000010#32) (fun c => { c with mtvec := 0x80000100#32, mstatus := 8#32 })) 0x00000073
      (fun t => t.pc == 0x80000100#32 && t.csr.mepc == 0x80000010#32 && t.csr.mcause == 11#32 &&
        t.csr.mstatus == 0x1880#32 && t.priv == .m) := by decide

/-- V213. -/
theorem test_ecall_delegated :
    ran { withCsr base (fun c => { c with medeleg := 0x100#32, stvec := 0x80000200#32, mstatus := 2#32 }) with
        priv := .u } 0x00000073
      (fun t => t.pc == 0x80000200#32 && t.csr.sepc == 0x80000000#32 && t.csr.scause == 8#32 &&
        t.csr.mstatus == 0x20#32 && t.priv == .s && t.csr.mepc == 0#32) := by decide

/-- V215: the machine then halts with success. -/
theorem test_ebreak :
    ran base 0x00100073 (fun t => t.stage == .halted && t.ctl.success && t.ctl.instCount == 1#64 && t.flags.simEnd)
      := by decide

/-- V216. -/
theorem test_mret :
    ran (withCsr base (fun c => { c with mstatus := 0x20080#32, mepc := 0x80000040#32 })) 0x30200073
      (fun t => t.pc == 0x80000040#32 && t.csr.mstatus == 0x88#32 && t.priv == .u) := by decide

/-- V219. -/
theorem test_sret :
    ran { withCsr base (fun c => { c with mstatus := 0x20120#32, sepc := 0x80000044#32 }) with priv := .s } 0x10200073
      (fun t => t.pc == 0x80000044#32 && t.csr.mstatus == 0x22#32 && t.priv == .s) := by decide

/-- V223. -/
theorem test_sfenceVma :
    ran ({ base with priv := .s }.ptwFill 0x80080400#32 1#32) 0x12000073
      (fun t => t.pc == 0x80000004#32 && t.ptwLookup 0x80080400#32 == none) := by decide

/-- V218. -/
theorem test_mret_in_s : traps ({ base with priv := .s }) 0x30200073 2 0x30200073#32 := by decide

/-- V221. -/
theorem test_sret_in_u : traps ({ base with priv := .u }) 0x10200073 2 0x10200073#32 := by decide

/-- V224. -/
theorem test_sfenceVma_in_u : traps ({ base with priv := .u }) 0x12628073 2 0x12628073#32 := by decide

/-- V226. -/
theorem test_word_zero : traps base 0x00000000 2 0x0#32 := by decide

/-- V227. -/
theorem test_word_ones : traps base 0xffffffff 2 0xffffffff#32 := by decide

/-- V229. -/
theorem test_flw_undecodable : traps base 0x00052007 2 0x52007#32 := by decide

/-- V240: vectored, the machine-external interrupt before the others. -/
theorem test_interrupt_order_and_vector :
    ran (withCsr base (fun c => { c with
        mstatus := 8#32, mie := 0x888#32, mip := 0x888#32, mtvec := 0x80000101#32 })) 0x00100093
      (fun t => t.pc == 0x8000012c#32 && t.csr.mepc == 0x80000000#32 && t.csr.mcause == 0x8000000b#32 &&
        t.reg 1#5 == 0#32) := by decide

/-- V246: a delegated interrupt is not taken in M-mode. -/
theorem test_delegated_interrupt_waits_in_m :
    writes (withCsr base (fun c => { c with
      mstatus := 0xa#32, mideleg := 0x222#32, mie := 0x222#32, mip := 0x222#32 })) 0x00100093 1#5 1#32 := by
  decide

set_option exponentiation.threshold 512

/-! ### Zfinx -/

/-- V301. -/
theorem test_faddS_tie_to_even :
    writes (regs [(1#5, 0x3f800000#32), (2#5, 0x33800000#32)]) 0x002081d3 3#5 0x3f800000#32 := by decide

/-- V302. -/
theorem test_faddS_up :
    writes (regs [(1#5, 0x3f800000#32), (2#5, 0x33800000#32)]) 0x0020b1d3 3#5 0x3f800001#32 := by decide

/-- V315. -/
theorem test_fsubS_subnormal :
    writes (regs [(1#5, 0x800000#32), (2#5, 0x1#32)]) 0x082081d3 3#5 0x7fffff#32 := by decide

/-- V317. -/
theorem test_fmulS_zero_times_infinity :
    writes (regs [(1#5, 0x0#32), (2#5, 0x7f800000#32)]) 0x102081d3 3#5 0x7fc00000#32 := by decide

/-- V319. -/
theorem test_fmulS_underflow_up :
    writes (regs [(1#5, 0x1#32), (2#5, 0x3f000000#32)]) 0x1020b1d3 3#5 0x1#32 := by decide

/-- V321. -/
theorem test_fdivS :
    writes (regs [(1#5, 0x3f800000#32), (2#5, 0x40400000#32)]) 0x182081d3 3#5 0x3eaaaaab#32 := by decide

/-- V324. -/
theorem test_fdivS_by_zero :
    writes (regs [(1#5, 0xbf800000#32), (2#5, 0x0#32)]) 0x182081d3 3#5 0xff800000#32 := by decide

/-- V327. -/
theorem test_fsqrtS : writes (regs [(1#5, 0x40000000#32)]) 0x580081d3 3#5 0x3fb504f3#32 := by decide +kernel

/-- V329. -/
theorem test_fsqrtS_negative :
    writes (regs [(1#5, 0xbf800000#32)]) 0x580081d3 3#5 0x7fc00000#32 := by decide

/-- V335. -/
theorem test_fsgnjS :
    writes (regs [(1#5, 0x7f800001#32), (2#5, 0x80000000#32)]) 0x202081d3 3#5 0xff800001#32 := by decide

/-- V333. -/
theorem test_fsgnjnS :
    writes (regs [(1#5, 0x3f800000#32), (2#5, 0x80000000#32)]) 0x202091d3 3#5 0x3f800000#32 := by decide

/-- V336. -/
theorem test_fsgnjxS : writes (regs [(1#5, 0xc0490fdb#32)]) 0x2010a1d3 3#5 0x40490fdb#32 := by decide

/-- V337. -/
theorem test_fminS :
    writes (regs [(1#5, 0x0#32), (2#5, 0x80000000#32)]) 0x282081d3 3#5 0x80000000#32 := by decide

/-- V340. -/
theorem test_fmaxS_nan :
    writes (regs [(1#5, 0x3f800000#32), (2#5, 0x7f800001#32)]) 0x282091d3 3#5 0x3f800000#32 := by decide

/-- V351. -/
theorem test_fcvtWS_down :
    writes (regs [(1#5, 0xc0200000#32)]) 0xc000a1d3 3#5 0xfffffffd#32 := by decide

/-- V356. -/
theorem test_fcvtWS_saturates :
    writes (regs [(1#5, 0xcf000001#32)]) 0xc00091d3 3#5 0x80000000#32 := by decide

/-- V363. -/
theorem test_fcvtWuS : writes (regs [(1#5, 0x4f7fffff#32)]) 0xc01091d3 3#5 0xffffff00#32 := by decide

/-- V368. -/
theorem test_fcvtSW : writes (regs [(1#5, 0x7fffffff#32)]) 0xd00091d3 3#5 0x4effffff#32 := by decide

/-- V373. -/
theorem test_fcvtSWu : writes (regs [(1#5, 0xffffffff#32)]) 0xd010a1d3 3#5 0x4f7fffff#32 := by decide

/-- V375. -/
theorem test_feqS :
    writes (regs [(1#5, 0x0#32), (2#5, 0x80000000#32)]) 0xa020a1d3 3#5 0x1#32 := by decide

/-- V377. -/
theorem test_fltS :
    writes (regs [(1#5, 0xbf800000#32), (2#5, 0x3f800000#32)]) 0xa02091d3 3#5 0x1#32 := by decide

/-- V382. -/
theorem test_fleS_nan :
    writes (regs [(1#5, 0x7f800001#32), (2#5, 0x3f800000#32)]) 0xa02081d3 3#5 0x0#32 := by decide

/-- V385. -/
theorem test_fclassS : writes (regs [(1#5, 0x80000001#32)]) 0xe00091d3 3#5 0x4#32 := by decide

/-- V393. -/
theorem test_fmaddS_fused :
    writes (regs [(1#5, 0x3f800800#32), (2#5, 0x3f800800#32), (3#5, 0xbf801000#32)]) 0x18208243 4#5 0x33800000#32 := by
  decide

/-- V395. -/
theorem test_fmsubS :
    writes (regs [(1#5, 0x40000000#32), (2#5, 0x40400000#32), (3#5, 0x3f800000#32)]) 0x18208247 4#5 0x40a00000#32 := by
  decide

/-- V396. -/
theorem test_fnmsubS :
    writes (regs [(1#5, 0x40000000#32), (2#5, 0x40400000#32), (3#5, 0x3f800000#32)]) 0x1820824b 4#5 0xc0a00000#32 := by
  decide

/-- V397. -/
theorem test_fnmaddS :
    writes (regs [(1#5, 0x40000000#32), (2#5, 0x40400000#32), (3#5, 0x3f800000#32)]) 0x1820824f 4#5 0xc0e00000#32 := by
  decide

/-- V306. -/
theorem test_faddS_reserved_rm :
    traps (regs [(1#5, 0x3f800000#32), (2#5, 0x40000000#32)]) 0x0020d1d3 2 0x20d1d3#32 := by decide

/-! ## For every obligation with hypotheses, a state and operands that meet them, clause by clause -/

theorem csrs_reset_legal : Csrs.reset.Legal := by constructor <;> decide

/-- A state that differs from `base` in no CSR and no memory, at an aligned pc, is legal. -/
theorem legal_of_base {s : State} (hp : s.pc.extractLsb' 0 2 = 0#2) (hc : s.csr = Csrs.reset) (hm : s.mirror.wf = true)
    (hs : s.slave.mem.wf = true) : s.Legal := ⟨hp, hc ▸ csrs_reset_legal, hm, hs⟩

theorem witness_DecodeEncodeRoundTrip :
    Instr.wellFormed (.jal 31#5 (-1048576#21)) = true ∧ Instr.wellFormed (.fmaddS 1#5 2#5 3#5 4#5 7#3) = true := by decide

theorem witness_EncodeDecodeRoundTrip : decode 0xffffffef#32 = .ok (.jal 31#5 (-2#21)) := by decide

theorem witness_DecodeFollowsOpcodeTable :
    (∃ r ∈ opcodeTable, r.covers 0x002081b3#32 = true) ∧ (∀ r ∈ opcodeTable, r.covers 0#32 = false) :=
  ⟨by decide, by decide⟩

/-- `base` with a word at pc. -/
def placed (w : Nat) : State := base.withFetchWord 32 w

theorem translate_bare {s : State} {va : Word} {ty : Access} (h : s.csr = Csrs.reset) :
    (translate s va ty).1 = .ok va := by
  simp [Machine.translate, translateWith, translationOn, h, Csrs.reset]

theorem inBounds_default {s : State} {pa : Word} (h : s.cfg = Config.default) : s.inBounds pa = true := by
  have := pa.isLt
  simp only [State.inBounds, h, Config.default, decide_eq_true_eq]
  omega

theorem placed_ready (w : Nat) : (placed w).ready :=
  ⟨rfl, by have : (placed w).ctl = Control.reset := rfl; rw [this]; decide,
    by have : (placed w).ctl = Control.reset := rfl; rw [this]; decide⟩

theorem placed_reaches (w : Nat) : (placed w).reaches (placed w).pc .fetch 0x80000000#32 :=
  ⟨translate_bare rfl, inBounds_default rfl⟩

theorem witness_StepRunsDecodedInstruction :
    (placed 0x002081b3).ready ∧ (placed 0x002081b3).fetches 0x002081b3#32 ∧
    decode 0x002081b3#32 = .ok (.add 3#5 1#5 2#5) ∧ takeableInterrupt (placed 0x002081b3) = none :=
  ⟨placed_ready _, ⟨rfl, 0x80000000#32, placed_reaches _, rfl, by decide⟩, by decide, rfl⟩

theorem witness_FetchReadsTheWordAtPc : ∃ s : State, s.mirror.wf = true ∧ s.reaches s.pc .fetch 0x80000000#32 ∧
    s.readsOk 0x80000000#32 :=
  ⟨placed 0, rfl, placed_reaches 0, rfl⟩

/-- The two-level table of spec/95 section 3.1, its two PTEs given, and data accesses translated as in S-mode (T5). -/
def sv32 (p1 p0 : Word) : State :=
  withWord (withWord (withCsr base fun c => { c with satp := 0x80080080#32, mstatus := 0x00020800#32 })
    0x80080400#32 p1) 0x80081000#32 p0

theorem sv32_csr (p1 p0 : Word) :
    (sv32 p1 p0).csr = { Csrs.reset with satp := 0x80080080#32, mstatus := 0x00020800#32 } := rfl

/-- The same table with the fetch translated. -/
def sv32Fetch (p1 p0 : Word) : State := { sv32 p1 p0 with priv := .s, pc := 0x40000abc#32 }

/-- T10; a PTE read that fails; a pc at the first word out of bounds; an error response; an undecodable word. -/
theorem witness_FetchFailuresTrap :
    (∃ s : State, s.ready ∧ takeableInterrupt s = none ∧ (translate s s.pc .fetch).1 = .pageFault) ∧
    (∃ s : State, s.ready ∧ takeableInterrupt s = none ∧ (translate s s.pc .fetch).1 = .accessFault) ∧
    (∃ s : State, s.ready ∧ takeableInterrupt s = none ∧ (translate s s.pc .fetch).1 = .ok 0x80000000#32 ∧
      s.inBounds 0x80000000#32 = false) ∧
    (∃ s : State, s.ready ∧ takeableInterrupt s = none ∧ (translate s s.pc .fetch).1 = .ok 0x80000000#32 ∧
      ¬s.readsOk 0x80000000#32) ∧
    (∃ s : State, s.ready ∧ takeableInterrupt s = none ∧ s.fetches 0#32 ∧ decode 0#32 = .error .notThirtyTwoBit) :=
  ⟨⟨sv32Fetch 0x20020401#32 0x20000843#32, ⟨rfl, by decide, by decide⟩, rfl, by decide⟩,
    ⟨{ sv32Fetch 0#32 0#32 with slave.readErr := [0x80080400#32] }, ⟨rfl, by decide, by decide⟩, rfl, by decide⟩,
    ⟨{ base with cfg.memWords := 0x20000000 }, ⟨rfl, by decide, by decide⟩, rfl, rfl, by decide⟩,
    ⟨{ base with slave.readErr := [0x80000000#32] }, ⟨rfl, by decide, by decide⟩, rfl, rfl, by unfold State.readsOk; decide⟩,
    ⟨placed 0, placed_ready 0, rfl, ⟨rfl, 0x80000000#32, placed_reaches 0, rfl, by decide⟩, by decide⟩⟩

/-- An image that needs padding, in the slave and in the mirror. -/
theorem witness_ResetAndImageLoad : ∃ image : List Byte, image.length ≤ 2 ^ 31 ∧ 4 < image.length ∧
    ∀ m ∈ [(base.loadImage image).slave.mem, (base.loadImage image).mirror], m.readByte 0x80000004 = 5#8 :=
  ⟨[1#8, 2#8, 3#8, 4#8, 5#8], by decide, by decide, by decide⟩

/-- A pending, enabled machine-timer interrupt, and the word `sw x5, 0(x6)` at pc. -/
def interrupted : State :=
  (withCsr (withRegs base [(5#5, 0xaabbccdd#32), (6#5, 0xfffffffc#32)]) fun c => { c with
    mstatus := 8#32, mie := 0x80#32, mip := 0x80#32 }).withFetchWord 32 0x00532023

theorem interrupted_legal : interrupted.Legal := ⟨rfl, by constructor <;> decide, rfl, by decide⟩

theorem witness_InterruptReplacesInstruction :
    interrupted.ready ∧ takeableInterrupt interrupted = some .mti ∧ interrupted.Legal ∧
    interrupted.csr.satp.getLsbD 31 = false ∧ interrupted.fetches 0x00532023#32 ∧
    decode 0x00532023#32 = .ok (.sw 6#5 5#5 0#12) ∧ (interrupted.reg 6#5 + (0#12).signExtend 32).toNat % 4 = 0 ∧
    interrupted.inBounds (interrupted.reg 6#5 + (0#12).signExtend 32) = true ∧
    interrupted.writesOk (interrupted.reg 6#5 + (0#12).signExtend 32) :=
  ⟨⟨rfl, by decide, by decide⟩, by decide, interrupted_legal, rfl, ⟨rfl, 0x80000000#32, ⟨rfl, rfl⟩, rfl, by decide⟩,
    by decide, by decide, by decide, rfl⟩

theorem witness_HaltedMachineStays : { base with stage := .halted }.stage = .halted := rfl

/-- Each limit at its boundary: equal to its counter. -/
theorem witness_LimitsHaltTheMachine :
    (∃ s : State, s.stage ≠ .halted ∧ s.ctl.maxInst = s.ctl.instCount ∧ s.ctl.maxInst ≤ s.ctl.instCount) ∧
    (∃ s : State, s.stage ≠ .halted ∧ s.ctl.instCount < s.ctl.maxInst ∧ s.ctl.maxCycles ≤ s.ctl.simTime ∧
      s.ctl.maxCycles = s.ctl.simTime) :=
  ⟨⟨base.setLimits 0#64 9#64, by decide, by decide, by decide⟩,
    ⟨base.setLimits 1#64 0#64, by decide, by decide, by decide, by decide⟩⟩

theorem witness_EachPassCountsOneInstruction : (placed 0x00100093).ready ∧ ∃ t, step (placed 0x00100093) = .next t :=
  ⟨placed_ready _, _, rfl⟩

theorem witness_EbreakWordHalts :
    (∃ s : State, s.ready ∧ s.fetches 0x00100073#32 ∧ takeableInterrupt s = none) ∧
    (∃ s : State, s.ready ∧ s.fetches 0x00100073#32 ∧ takeableInterrupt s = some .mti) :=
  ⟨⟨placed 0x00100073, placed_ready _, ⟨rfl, 0x80000000#32, placed_reaches _, rfl, by decide⟩, rfl⟩,
    ⟨interrupted.withFetchWord 32 0x00100073, ⟨rfl, by decide, by decide⟩,
      ⟨rfl, 0x80000000#32, ⟨rfl, rfl⟩, rfl, by decide⟩, by decide⟩⟩

/-- An AMO's operands, and a slave that answers the write of its word with an error. -/
def amoError : State := { regs [(5#5, 1#32), (6#5, 0x80001000#32)] with slave.writeErr := [0x80001000#32] }

/-- An AMO, an SC.W with its reservation held. -/
theorem witness_StepStopsOnlyOnAmoWriteError :
    exec (.amoaddW 7#5 6#5 5#5 true true) amoError = .fault .amoWriteBusError ∧
    exec (.scW 7#5 6#5 5#5 true true) (withRes amoError 0x80001000#32) = .fault .amoWriteBusError := ⟨rfl, rfl⟩

theorem witness_DivisionIdentity :
    (3#5 : Reg) ≠ 0#5 ∧ (regs [(1#5, 0x80000000#32), (2#5, 0xffffffff#32)]).reg 2#5 ≠ 0#32 := by decide

theorem witness_JumpsLinkAndTransfer :
    (base.pc + (-4#21).signExtend 32).toNat % 4 = 0 ∧
    ((regs [(5#5, 0x80000101#32)]).reg 5#5 + (0#12).signExtend 32).getLsbD 1 = false := by decide

theorem witness_BranchesFollowTheirCondition :
    (base.reg 1#5 = base.reg 2#5 ∧ (base.pc + (8#13).signExtend 32).toNat % 4 = 0) ∧
    ¬base.reg 1#5 ≠ base.reg 2#5 := by decide

/-- The smallest offsets that miss a multiple of 4, both ways; a branch taken and one not taken. -/
theorem witness_MisalignedTargetsTrap :
    (base.pc + (2#21).signExtend 32).extractLsb' 0 2 ≠ 0#2 ∧
    (base.reg 0#5 + (-2#12).signExtend 32).getLsbD 1 = true ∧
    (base.pc + (-2#13).signExtend 32).extractLsb' 0 2 ≠ 0#2 ∧
    decide (base.reg 0#5 = base.reg 0#5) = true ∧ decide (base.reg 0#5 ≠ base.reg 0#5) = false := by decide

/-- x6 at an address, x5 a value. -/
def operands (a : Word) : State := regs [(5#5, 0xaabbccdd#32), (6#5, a)]

theorem operands_csr (a : Word) : (operands a).csr = Csrs.reset := by simp [operands, regs, withRegs, base, State.reset]

theorem operands_legal (a : Word) : (operands a).Legal :=
  legal_of_base (by simp [operands, regs, withRegs, base]) (operands_csr a)
    (by simp [operands, regs, withRegs, base, State.reset, Memory.wf, Memory.wfFrom])
    (by simp [operands, regs, withRegs, base, State.reset, Memory.wf, Memory.wfFrom])

/-- The last byte, halfword and word of the address space. -/
theorem witness_LoadsReadBytes :
    (operands 0xffffffff#32).reaches 0xffffffff#32 .load 0xffffffff#32 ∧
    (operands 0xffffffff#32).readsOk 0xffffffff#32 ∧
    ((operands 0xfffffffe#32).reg 6#5 + (0#12).signExtend 32).toNat % 2 = 0 ∧
    (operands 0xfffffffe#32).reaches 0xfffffffe#32 .load 0xfffffffe#32 ∧
    ((operands 0xfffffffc#32).reg 6#5 + (0#12).signExtend 32).toNat % 4 = 0 ∧
    (operands 0xfffffffc#32).reaches 0xfffffffc#32 .load 0xfffffffc#32 ∧ (operands 0xfffffffc#32).Legal :=
  ⟨⟨rfl, by decide⟩, rfl, by decide, ⟨rfl, by decide⟩, by decide, ⟨rfl, by decide⟩, operands_legal _⟩

theorem witness_StoresWriteBytes :
    (operands 0xffffffff#32).reaches 0xffffffff#32 .store 0xffffffff#32 ∧
    (operands 0xffffffff#32).writesOk 0xffffffff#32 ∧
    ((operands 0xfffffffe#32).reg 6#5 + (0#12).signExtend 32).toNat % 2 = 0 ∧
    (operands 0xfffffffe#32).reaches 0xfffffffe#32 .store 0xfffffffe#32 ∧
    ((operands 0xfffffffc#32).reg 6#5 + (0#12).signExtend 32).toNat % 4 = 0 ∧
    (operands 0xfffffffc#32).reaches 0xfffffffc#32 .store 0xfffffffc#32 ∧ (operands 0xfffffffc#32).Legal :=
  ⟨⟨rfl, by decide⟩, rfl, by decide, ⟨rfl, by decide⟩, by decide, ⟨rfl, by decide⟩, operands_legal _⟩

/-- A store that covers `UART_BASE`, and one just below it. -/
theorem witness_StoresEmitUartCharacter :
    (operands 0x10000000#32).reaches ((operands 0x10000000#32).reg 6#5 + (0#12).signExtend 32) .store 0x10000000#32 ∧
    (operands 0x10000000#32).uartAfter 0x10000000#32 1 0x41#32 = [0x41#8] ∧
    (operands 0x0ffffffc#32).reaches ((operands 0x0ffffffc#32).reg 6#5 + (0#12).signExtend 32) .store 0x0ffffffc#32 ∧
    (operands 0x0ffffffc#32).uartAfter 0x0ffffffc#32 4 0x41#32 = [] :=
  ⟨⟨by decide, by decide⟩, by decide, ⟨by decide, by decide⟩, by decide⟩

theorem witness_LoadReturnsLastStore : ∃ t, exec (.sw 6#5 5#5 0#12) (operands 0xfffffffc#32) = .next t ∧
    (t.reg 6#5 + (0#12).signExtend 32).toNat % 4 = 0 ∧
    t.reaches (t.reg 6#5 + (0#12).signExtend 32) .load 0xfffffffc#32 :=
  ⟨_, rfl, by decide, ⟨by decide, by decide⟩⟩

theorem witness_MisalignedAccessesTrap :
    (∃ m, preDecode (.lh 7#5 6#5 1#12) (operands 0#32) = some m ∧ m.va.toNat % m.size ≠ 0) ∧
    (∃ m, preDecode (.sw 6#5 5#5 2#12) (operands 0#32) = some m ∧ m.va.toNat % m.size ≠ 0) ∧
    (∃ m, preDecode (.amoorW 7#5 6#5 5#5 false false) (operands 3#32) = some m ∧ m.va.toNat % m.size ≠ 0) :=
  ⟨⟨_, rfl, by decide⟩, ⟨_, rfl, by decide⟩, ⟨_, rfl, by decide⟩⟩

/-- The vectors' table with x6 at the mapped address. -/
def sv32Data (p1 p0 : Word) : State := withRegs (sv32 p1 p0) [(6#5, 0x40000abc#32)]

/-- T6 and T12; a PTE out of reach; the first word out of bounds. -/
theorem witness_UntranslatableAccessesTrap :
    (∃ m, preDecode (.sw 6#5 5#5 0#12) (sv32Data 0x20020401#32 0x20000843#32) = some m ∧ m.va.toNat % m.size = 0 ∧
      (translate (sv32Data 0x20020401#32 0x20000843#32) m.va m.type).1 = .pageFault) ∧
    (∃ m, preDecode (.lw 7#5 6#5 0#12) { sv32Data 0#32 0#32 with slave.readErr := [0x80080400#32] } = some m ∧
      m.va.toNat % m.size = 0 ∧
      (translate { sv32Data 0#32 0#32 with slave.readErr := [0x80080400#32] } m.va m.type).1 = .accessFault) ∧
    (∃ m pa, preDecode (.lrW 7#5 6#5 false false) { operands 0x1000#32 with cfg.memWords := 0x400 } = some m ∧
      m.va.toNat % m.size = 0 ∧ (translate { operands 0x1000#32 with cfg.memWords := 0x400 } m.va m.type).1 = .ok pa ∧
      { operands 0x1000#32 with cfg.memWords := 0x400 }.inBounds pa = false) :=
  ⟨⟨_, rfl, by decide, by decide⟩, ⟨_, rfl, by decide, by decide⟩, ⟨_, 0x1000#32, rfl, by decide, rfl, by decide⟩⟩

theorem witness_BusErrorsTrap :
    (∃ m, preDecode (.lb 7#5 6#5 3#12) { operands 0x1000#32 with slave.readErr := [0x1000#32] } = some m ∧
      m.va.toNat % m.size = 0 ∧
      { operands 0x1000#32 with slave.readErr := [0x1000#32] }.reaches m.va m.type 0x1003#32 ∧ m.kind ≠ .store ∧
      ¬{ operands 0x1000#32 with slave.readErr := [0x1000#32] }.readsOk 0x1003#32) ∧
    (∃ m, preDecode (.sh 6#5 5#5 2#12) { operands 0x1000#32 with slave.writeErr := [0x1000#32] } = some m ∧
      m.va.toNat % m.size = 0 ∧
      { operands 0x1000#32 with slave.writeErr := [0x1000#32] }.reaches m.va m.type 0x1002#32 ∧ m.kind = .store ∧
      { operands 0x1000#32 with slave.writeErr := [0x1000#32] }.mirror.wf = true ∧
      ¬{ operands 0x1000#32 with slave.writeErr := [0x1000#32] }.writesOk 0x1002#32) :=
  ⟨⟨_, rfl, by decide, ⟨by decide, by decide⟩, by decide, by unfold State.readsOk; decide⟩,
    ⟨_, rfl, by decide, ⟨by decide, by decide⟩, rfl, rfl, by unfold State.writesOk; decide⟩⟩

theorem witness_LoadReservedReserves : (operands 0xfffffffc#32).Legal ∧ ((operands 0xfffffffc#32).reg 6#5).toNat % 4 = 0 ∧
    (operands 0xfffffffc#32).reaches ((operands 0xfffffffc#32).reg 6#5) .load 0xfffffffc#32 ∧
    (operands 0xfffffffc#32).readsOk 0xfffffffc#32 :=
  ⟨operands_legal _, by decide, ⟨by decide, by decide⟩, rfl⟩

/-- A reservation on the word; one on the word after; none. -/
theorem witness_StoreConditionalOutcomes :
    (∀ r, (withRes (operands 0x80001000#32) r).Legal ∧ (withRes (operands 0x80001000#32) r).reg 6#5 = 0x80001000#32 ∧
      (withRes (operands 0x80001000#32) r).reaches 0x80001000#32 .store 0x80001000#32 ∧
      (withRes (operands 0x80001000#32) r).readsOk 0x80001000#32 ∧
      (withRes (operands 0x80001000#32) r).writesOk 0x80001000#32) ∧
    ((withRes (operands 0x80001000#32) 0x80001000#32).res.valid = true ∧
      (withRes (operands 0x80001000#32) 0x80001000#32).res.addr = 0x80001000#32) ∧
    ¬((withRes (operands 0x80001000#32) 0x80001004#32).res.valid = true ∧
      (withRes (operands 0x80001000#32) 0x80001004#32).res.addr = 0x80001000#32) ∧
    ¬((operands 0x80001000#32).res.valid = true ∧ (operands 0x80001000#32).res.addr = 0x80001000#32) :=
  ⟨fun _ => ⟨legal_of_base (operands_legal 0x80001000#32).pc (operands_csr 0x80001000#32)
      (operands_legal 0x80001000#32).mirror (operands_legal 0x80001000#32).slave,
    show (operands 0x80001000#32).reg 6#5 = _ by decide, ⟨translate_bare (operands_csr 0x80001000#32), inBounds_default rfl⟩, rfl, rfl⟩,
    by decide, by decide, by decide⟩

theorem witness_AmosReadModifyWrite : (operands 0xfffffffc#32).Legal ∧ ((operands 0xfffffffc#32).reg 6#5).toNat % 4 = 0 ∧
    (operands 0xfffffffc#32).reaches ((operands 0xfffffffc#32).reg 6#5) .store 0xfffffffc#32 ∧
    (operands 0xfffffffc#32).readsOk 0xfffffffc#32 ∧ (operands 0xfffffffc#32).writesOk 0xfffffffc#32 :=
  ⟨operands_legal _, by decide, ⟨by decide, by decide⟩, rfl, rfl⟩

/-- For the AMOs, and for SC.W with a reservation held on the word. -/
theorem witness_AmoWriteErrorStops : (amoError.reg 6#5).toNat % 4 = 0 ∧
    amoError.reaches (amoError.reg 6#5) .store 0x80001000#32 ∧ amoError.readsOk 0x80001000#32 ∧
    ¬amoError.writesOk 0x80001000#32 ∧ (withRes amoError 0x80001000#32).res.valid = true ∧
    (withRes amoError 0x80001000#32).res.addr = 0x80001000#32 ∧
    (withRes amoError 0x80001000#32).reaches ((withRes amoError 0x80001000#32).reg 6#5) .store 0x80001000#32 ∧
    ¬(withRes amoError 0x80001000#32).writesOk 0x80001000#32 :=
  ⟨by decide, ⟨by decide, by decide⟩, rfl, by unfold State.writesOk; decide, rfl, rfl, ⟨by decide, by decide⟩,
    by unfold State.writesOk; decide⟩

/-- A form that writes, and one that does not, at the read-only number; a view; the time source. -/
theorem witness_CsrInstructionsReadAndWrite :
    (csrOfNumber 0x300#12 = some .mstatus ∧ (0x300#12, base.csr.mstatus) ∈ csrValues base ∧ csrAllowed 0x300#12 True base) ∧
    (csrOfNumber 0xF14#12 = some .mhartid ∧ (0xF14#12, 0#32) ∈ csrValues base ∧
      csrAllowed 0xF14#12 ((0#5 : Reg) ≠ 0#5) base) ∧
    (csrOfNumber 0x100#12 = some .sstatus ∧ (0x100#12, base.csr.mstatus &&& 0x000C0122#32) ∈ csrValues base ∧
      csrAllowed 0x100#12 True { base with priv := .s }) ∧
    (csrOfNumber 0xC01#12 = some .time ∧ (0xC01#12, Config.timeSource base.draws) ∈ csrValues base ∧
      csrAllowed 0xC01#12 ((0#5 : Reg) ≠ 0#5) { base with priv := .u }) :=
  ⟨⟨rfl, by simp [csrValues], by decide, by decide, by decide⟩, ⟨rfl, by simp [csrValues], by decide, by decide, by decide⟩,
    ⟨rfl, by simp [csrValues], by decide, by decide, by decide⟩, ⟨rfl, by simp [csrValues], by decide, by decide, by decide⟩⟩

/-- No such CSR; too low a mode; a write to a read-only number (with x0's value, R326). -/
theorem witness_IllegalCsrAccessTraps :
    ¬csrAllowed 0x003#12 True base ∧ ¬csrAllowed 0x300#12 ((0#5 : Reg) ≠ 0#5) { base with priv := .s } ∧
    ¬csrAllowed 0xF14#12 True base := by
  unfold csrAllowed; decide

theorem witness_CsrWritesAreMasked : base.priv = .m := rfl

/-- A form that writes always, and one that writes since its immediate is not 0. -/
theorem witness_SfenceAndSatpFlush : { base with priv := .s }.priv ≠ .u ∧
    (Instr.csrrw 1#5 2#5 0x180#12, True, base.reg 2#5) ∈ csrForms 1#5 2#5 1#5 0x180#12 base base.csr.satp ∧
    (Instr.csrrsi 1#5 1#5 0x180#12, (1#5 : BitVec 5) ≠ 0#5, base.csr.satp ||| (1#5).setWidth 32) ∈
      csrForms 1#5 2#5 1#5 0x180#12 base base.csr.satp ∧ (1#5 : BitVec 5) ≠ 0#5 :=
  ⟨by decide, by simp [csrForms], by simp [csrForms], by decide⟩

theorem witness_MretAndSretRestore :
    (base.priv = .m ∧ base.csr.Legal) ∧ { base with priv := .s }.priv ≠ .u := ⟨⟨rfl, csrs_reset_legal⟩, by decide⟩

theorem witness_PrivilegedFormsTrapBelow :
    { base with priv := .s }.priv ≠ .m ∧ { base with priv := .u }.priv = .u := by decide

theorem witness_FloatInstructionsComplete :
    ((7#3 : BitVec 3), Rounding.rne) ∈
      [((0#3 : BitVec 3), Rounding.rne), (1#3, .rtz), (2#3, .rdn), (3#3, .rup), (4#3, .rmm), (7#3, .rne)] := by decide

theorem witness_ReservedRoundingModeTraps :
    Instr.fmaddS 1#5 2#5 3#5 4#5 6#3 ∈ [Instr.faddS 1#5 2#5 3#5 6#3, .fmaddS 1#5 2#5 3#5 4#5 6#3] := by decide

theorem datum_ne_zero {v : Word} (h : fValue v ≠ 0) : (datum v : ℝ) ≠ 0 := by
  rw [Rat.cast_ne_zero, datum_eq]
  exact div_ne_zero (Int.cast_ne_zero.2 h) (by positivity)

/-- A result that is a NaN of operands that are none; a signalling NaN; infinities of both signs as the other operand;
1 + (-1), the two zeros, and a product with a zero. -/
theorem witness_NanInfinityAndZeroResults :
    (isNanDatum (fAdd .rne (infOf false) (infOf true)) ∧ isNanDatum 0x7f800001#32 ∧ isNanDatum 0xffc00000#32) ∧
    ((infOf true).getLsbD 31 = true ∧ infOf true ≠ zeroOf true ∧ ¬isNanDatum (infOf true) ∧ infOf true ≠ zeroOf false ∧
      infOf true ≠ infOf !true ∧ infOf true ≠ infOf false) ∧
    (isFinite 0x3f800000#32 ∧ isFinite 0xbf800000#32 ∧ isFinite (zeroOf true) ∧
      datum 0x3f800000#32 + datum 0xbf800000#32 = 0 ∧ datum 0x3f800000#32 - datum 0x3f800000#32 = 0 ∧
      datum (zeroOf false) = 0 ∧ datum (zeroOf true) = 0 ∧ datum 0x3f800000#32 ≠ 0 ∧
      datum 0x3f800000#32 * datum (zeroOf true) + datum (zeroOf false) = 0) := by
  have z : ∀ p, datum (zeroOf p) = 0 := by
    intro p; rw [datum_eq, show fValue (zeroOf p) = 0 by cases p <;> decide]; simp
  refine ⟨by unfold isNanDatum; decide, by unfold isNanDatum; decide, by unfold isFinite; decide,
    by unfold isFinite; decide, by unfold isFinite; decide, ?_, sub_self _, z _, z _, ?_, by rw [z, z]; simp⟩
  · rw [datum_eq, datum_eq, show fValue 0xbf800000#32 = -fValue 0x3f800000#32 by decide]; push_cast; ring
  · exact fun h => datum_ne_zero (v := 0x3f800000#32) (by decide) (by rw [h]; simp)

theorem witness_SignInjectionAndClass :
    (255#8 : BitVec 8) = ((regs [(1#5, 0xff800000#32)]).reg 1#5).extractLsb' 23 8 ∧
    (0#23 : BitVec 23) = ((regs [(1#5, 0xff800000#32)]).reg 1#5).extractLsb' 0 23 := by decide

/-- A NaN; the two zeros, equal in value; an infinity. -/
theorem witness_ComparisonsOrderData :
    isNanDatum 0x7fc00000#32 ∧ ¬isNanDatum 0x80000000#32 ∧ ¬isNanDatum 0#32 ∧ datum 0x80000000#32 = datum 0#32 ∧
    ¬isNanDatum 0xff800000#32 := by
  refine ⟨by unfold isNanDatum; decide, by unfold isNanDatum; decide, by unfold isNanDatum; decide, ?_,
    by unfold isNanDatum; decide⟩
  rw [datum_eq, datum_eq, show fValue 0x80000000#32 = fValue 0#32 by decide]

/-- R364's overflow 0x7F7FFFFF * 2.0, a quotient, a root, the least integer; the largest finite datum for the conversions. -/
theorem witness_DirectedRoundingBrackets :
    isFinite 0x7f7fffff#32 ∧ isFinite 0x40000000#32 ∧ isFinite 0x3f800000#32 ∧
    exactResult .rup 0x7f7fffff#32 0x40000000#32 0x3f800000#32 0x80000000#32 (fMul .rup 0x7f7fffff#32 0x40000000#32)
      (datum 0x7f7fffff#32 * datum 0x40000000#32) ∧
    (datum 0x7f7fffff#32 * datum 0x40000000#32 : ℝ) ≠ 0 ∧ (datum 0x3f800000#32 / datum 0x40000000#32 : ℝ) ≠ 0 ∧
    Real.sqrt (datum 0x40000000#32) ≠ 0 ∧ ((0x80000000#32 : Word).toInt : ℝ) ≠ 0 := by
  have h2 : (0 : ℝ) < datum 0x40000000#32 := by
    rw [Rat.cast_pos, datum_eq]; exact div_pos (Int.cast_pos.2 (by decide)) (by positivity)
  exact ⟨by unfold isFinite; decide, by unfold isFinite; decide, by unfold isFinite; decide, by simp [exactResult],
    mul_ne_zero (datum_ne_zero (by decide)) h2.ne', div_ne_zero (datum_ne_zero (by decide)) h2.ne',
    (Real.sqrt_pos.2 h2).ne', Int.cast_ne_zero.2 (by decide)⟩

/-- The tie of V301, a difference, a fused sum with a subnormal. -/
theorem witness_NearestRoundingIsClosest :
    isFinite 0x3f800000#32 ∧ isFinite 0x33800000#32 ∧ isFinite 0x00000001#32 ∧
    exactResult .rmm 0x3f800000#32 0x33800000#32 0x00000001#32 0#32 (fAdd .rmm 0x3f800000#32 0x33800000#32)
      (datum 0x3f800000#32 + datum 0x33800000#32) ∧
    (datum 0x3f800000#32 + datum 0x33800000#32 : ℝ) ≠ 0 ∧
    (datum 0x3f800000#32 * datum 0x33800000#32 + datum 0x00000001#32 : ℝ) ≠ 0 := by
  have pos : ∀ {v : Word}, 0 < fValue v → (0 : ℝ) < datum v := fun h => by
    rw [Rat.cast_pos, datum_eq]; exact div_pos (Int.cast_pos.2 h) (by positivity)
  exact ⟨by unfold isFinite; decide, by unfold isFinite; decide, by unfold isFinite; decide, by simp [exactResult],
    (add_pos (pos (by decide)) (pos (by decide))).ne',
    (add_pos (mul_pos (pos (by decide)) (pos (by decide))) (pos (by decide))).ne'⟩

theorem witness_TrapEntersMachineMode :
    trapToS (.exc .ecallM) base = false ∧ trapToS (.int .mti) { base with priv := .u } = false := by decide

/-- A delegated exception from U-mode, a delegated interrupt from S-mode, and the same delegation in M-mode. -/
theorem witness_TrapEntersSupervisorMode :
    trapToS (.exc .ecallU) { withCsr base (fun c => { c with medeleg := 0x100#32 }) with priv := .u } = true ∧
    trapToS (.int .ssi) { withCsr base (fun c => { c with mideleg := 2#32 }) with priv := .s } = true ∧
    trapToS (.int .ssi) (withCsr base fun c => { c with mideleg := 2#32 }) = false := by decide

/-- An instruction that completes in U-mode, one that traps to M, one that traps to S. -/
theorem witness_UserModeIsContained :
    (∃ t, exec (.addi 1#5 0#5 1#12) { base with priv := .u } = .next t ∧ t.flags.isException = false) ∧
    (∃ t, exec .mret { base with priv := .u } = .next t ∧ t.flags.isException = true ∧ t.priv = .m) ∧
    (∃ t, exec .ecall { withCsr base (fun c => { c with medeleg := 0x100#32 }) with priv := .u } = .next t ∧
      t.flags.isException = true ∧ t.priv = .s) :=
  ⟨⟨_, rfl, rfl⟩, ⟨_, rfl, rfl, rfl⟩, ⟨_, rfl, by decide, by decide⟩⟩

/-- An instruction without an access, a store with translation off, and a load whose walk fills two entries. -/
theorem witness_ReservationAndCacheTouchedOnlyByTheirOwn :
    (∃ t, exec (.add 3#5 1#5 2#5) base = .next t ∧ preDecode (.add 3#5 1#5 2#5) base = none) ∧
    (∃ t m, exec (.sw 6#5 5#5 0#12) (operands 4#32) = .next t ∧ preDecode (.sw 6#5 5#5 0#12) (operands 4#32) = some m) ∧
    (∃ t m, exec (.lw 7#5 6#5 0#12) (sv32Data 0x20020401#32 0x20000843#32) = .next t ∧
      preDecode (.lw 7#5 6#5 0#12) (sv32Data 0x20020401#32 0x20000843#32) = some m ∧ m.va.toNat % m.size = 0 ∧
      t.ptwLookup 0x80080400#32 = some 0x20020401#32 ∧ t.ptwLookup 0x80081000#32 = some 0x20000843#32) :=
  ⟨⟨_, rfl, rfl⟩, ⟨_, _, rfl, rfl⟩, ⟨_, _, rfl, rfl, by decide, by decide, by decide⟩⟩

theorem ptwLookup_of_reset {s : State} (h : s.ptw = State.reset.ptw) (pa : Word) : s.ptwLookup pa = none := by
  rw [State.ptwLookup, h]
  simp [State.reset, PtwEntry.invalid]

/-- T2; T3, a megapage; T5 and T6, a page; an invalid level-1 PTE; a PTE cached and stale; PTEs that cannot be read, the
level-1 one and the level-0 one. -/
theorem witness_WalkFollowsPageTables :
    base.csr.satp.getLsbD 31 = false ∧
    (∀ p1 p0, (sv32 p1 p0).csr.satp.getLsbD 31 = true ∧ effPriv (sv32 p1 p0) .load ≠ .m) ∧
    ((sv32 0x201000c7#32 0#32).pteReads (rootPteAddress (sv32 0x201000c7#32 0#32) 0x40000abc#32) 0x201000c7#32 ∧
      leafUsable (sv32 0x201000c7#32 0#32) .load 0x201000c7#32 ∧ (0x201000c7#32 : Word).extractLsb' 10 10 = 0#10) ∧
    (((sv32 0x20020401#32 0x20000843#32).afterPteRead
        (rootPteAddress (sv32 0x20020401#32 0x20000843#32) 0x40000abc#32) 0x20020401#32).pteReads
        (nextPteAddress 0x20020401#32 0x40000abc#32) 0x20000843#32 ∧
      leafUsable (sv32 0x20020401#32 0x20000843#32) .load 0x20000843#32 ∧
      ¬leafUsable (sv32 0x20020401#32 0x20000843#32) .store 0x20000843#32 ∧
      (0x20020401#32 : Word).getLsbD 0 = true ∧ (0x20020401#32 : Word).extractLsb' 1 3 = 0#3) ∧
    (0#32 : Word).getLsbD 0 = false ∧
    ((sv32 0#32 0#32).ptwFill 0x80080400#32 0x201000c7#32).pteReads 0x80080400#32 0x201000c7#32 ∧
    { sv32 0#32 0#32 with cfg.memWords := 0x20020100 }.pteFails 0x80080400#32 ∧
    { sv32 0#32 0#32 with slave.readErr := [0x80080400#32] }.pteFails 0x80080400#32 ∧
    ({ sv32 0x20020401#32 0#32 with slave.readErr := [0x80081000#32] }.afterPteRead 0x80080400#32 0x20020401#32).pteFails
      (nextPteAddress 0x20020401#32 0x40000abc#32) :=
  ⟨rfl, fun _ _ => ⟨by rw [sv32_csr]; decide, by rw [effPriv, sv32_csr, if_pos (by decide)]; decide⟩,
    ⟨⟨by decide, .inr ⟨ptwLookup_of_reset rfl _, rfl, by decide⟩⟩, by unfold leafUsable; decide, by decide⟩,
    ⟨⟨by decide, .inr ⟨by decide, by unfold State.readsOk; decide, by decide⟩⟩, by unfold leafUsable; decide,
      by unfold leafUsable; decide, by decide, by decide⟩,
    by decide, ⟨by decide, .inl (ptwLookup_ptwFill ..)⟩, .inl (by decide),
    .inr ⟨ptwLookup_of_reset rfl _, by unfold State.readsOk; decide⟩, .inr ⟨by decide, by unfold State.readsOk; decide⟩⟩

theorem witness_LegalKeptByStep : (placed 0x00100093).Legal ∧ ∃ t, step (placed 0x00100093) = .next t :=
  ⟨legal_of_base rfl rfl rfl (by decide), _, rfl⟩

/-- A fetch whose address is still to be accepted. -/
def fetching : State := { base with stage := .waitFetch, bus.fetchReq := .arm 0#2 0#2 0x80000000#32 3#2 }

/-- A store whose address is still to be accepted. -/
def storingSlot : State :=
  { base with
    stage := .waitData, memop := { kind := .store, vaddr := 4#32, paddr := 4#32, type := .store }
    bus.writeReq := .arm 1#2 4#32 3#2 0x55#32 0xf#4 }

theorem fetching_slots : fetching.SlotsFollowStage :=
  { one := by unfold Bus.atMostOne; decide, fetch := fun _ => .inl rfl, load := by decide, write := by decide
    mmu := fun h => by cases h }

theorem storingSlot_slots : storingSlot.SlotsFollowStage :=
  { one := by unfold Bus.atMostOne; decide, fetch := by decide, load := by decide, write := fun _ => .inl ⟨rfl, rfl⟩
    mmu := fun h => by cases h }

theorem witness_SlotsFollowStageKeptByTick : fetching.SlotsFollowStage ∧
    (∃ t, tick { AxiIn.idle with arready := true } fetching = .next t) ∧ fetching.stage ≠ .halted :=
  ⟨fetching_slots, ⟨_, rfl⟩, by decide⟩

theorem witness_MasterSignalsShowTheSlot :
    fetching.bus.atMostOne ∧ fetching.bus.fetchReq.active = true ∧ fetching.bus.fetchReq.issued = false ∧
    fetching.bus.fetchReq.totalBeats = 1 ∧ storingSlot.bus.writeReq.active = true ∧
    storingSlot.bus.writeReq.totalBeats = 1 ∧ storingSlot.bus.writeReq.beatsSeen = 0 ∧
    storingSlot.bus.writeReq.wdata = [0x55#32] :=
  ⟨fetching_slots.one, rfl, rfl, rfl, rfl, rfl, rfl, rfl⟩

theorem witness_RequestsStayUntilAccepted :
    (fetching.SlotsFollowStage ∧ (masterOutputs fetching.bus).arvalid = true ∧
      ∃ t, tick .idle fetching = .next t ∧ t.stage ≠ .halted) ∧
    (storingSlot.SlotsFollowStage ∧ (masterOutputs storingSlot.bus).awvalid = true ∧
      ∃ t, tick .idle storingSlot = .next t ∧ t.stage ≠ .halted) :=
  ⟨⟨fetching_slots, rfl, _, rfl, by decide⟩, ⟨storingSlot_slots, rfl, _, rfl, by decide⟩⟩

/-- The cycle limit at its boundary: exactly the five ticks are left. -/
theorem witness_FiveTicksMakeOneStep :
    ((placed 0x00100093).setLimits 1#64 5#64).ready ∧
    ((placed 0x00100093).setLimits 1#64 5#64).latch.store = false ∧
    ((placed 0x00100093).setLimits 1#64 5#64).ctl.simTime.toNat + 5 ≤
      ((placed 0x00100093).setLimits 1#64 5#64).ctl.maxCycles.toNat ∧
    translationOn ((placed 0x00100093).setLimits 1#64 5#64) .fetch = false ∧
    ((placed 0x00100093).setLimits 1#64 5#64).fetches 0x00100093#32 ∧
    decode 0x00100093#32 = .ok (.addi 1#5 0#5 1#12) ∧ preDecode (.addi 1#5 0#5 1#12) base = none :=
  ⟨⟨rfl, by decide, by decide⟩, rfl, by decide, rfl, ⟨rfl, 0x80000000#32, ⟨rfl, rfl⟩, rfl, by decide⟩, by decide, rfl⟩

end Sys2Proof.Tests
end

section
/-! PROOFS. The family of spec/20_memory.md: what an exception raised after a failed data access leaves unchanged, and
misaligned accesses (R91). -/

namespace Sys2Proof.Machine

/-! ## A data access that fails (R91, R421, R505) -/

section FailedAccess
variable (s : State)

/-- Of the flags, taking an exception sets `is_exception` and `asy` only. -/
theorem raise_flags (e : Exc) (v : Word) :
    (raise e v s).flags = { s.flags with isException := true, asy := false } := by
  unfold raise
  cases h : trapToS (.exc e) s
  · rw [trapEntry_notDelegated _ _ h]; rfl
  · rw [trapEntry_delegated _ _ h]; rfl

/-- Of the CSRs, taking an exception writes only those of R521 and R522. -/
theorem raise_csr_frame (e : Exc) (v : Word) :
    { (raise e v s).csr with
      mepc := s.csr.mepc, mcause := s.csr.mcause, mtval := s.csr.mtval
      sepc := s.csr.sepc, scause := s.csr.scause, stval := s.csr.stval, mstatus := s.csr.mstatus } = s.csr :=
  congrArg State.csr (raise_sameButTrap e v (d := s))

/-- An exception raised after a data access that left the slave alone changes nothing but what R521, R522 and a failed
data path change. -/
theorem raise_dataPhase_sameButFailedAccess {m : MemReq} (e : Exc) (v : Word) (hty : m.type = .load ∨ m.type = .store)
    (hs : (dataPhase m s).slave = s.slave) : s.sameButFailedAccess (raise e v (dataPhase m s)) := by
  have hcsr := raise_csr_frame (dataPhase m s) e v
  have hflags := dataPhase_flags_frame s m hty
  have hctl := dataPhase_ctl s m
  rw [dataPhase_csr] at hcsr
  unfold State.sameButFailedAccess
  apply State.eq_of_fields
  case h4 => exact hcsr
  case h5 =>
    rw [raise_flags]
    exact congrArg (fun f : Flags => { f with isException := s.flags.isException, asy := s.flags.asy }) hflags
  case h14 => simpa [raise] using hctl
  all_goals simp [raise, hs]

/-- A misaligned access sets the access-fault flag of its own type (R91), which `exec()` finds first (R505). -/
theorem dataPhase_misaligned_fault {m : MemReq} (ha : misaligned m.size m.va = true) :
    (m.type = .load → loadFault (dataPhase m s) = some .loadAccessFault) ∧
    (m.type = .store → storeFault (dataPhase m s) = some .storeAccessFault) := by
  rw [dataPhase_misaligned s ha]
  constructor <;> intro hty <;> rw [hty] <;> rfl

end FailedAccess

/-- Settles O27: a misaligned access sets its access-fault flag and nothing else, and Execute raises the fault found. -/
theorem misalignedAccessesTrap : Obligations.MisalignedAccessesTrap := by
  intro i s m hm hva
  have ha : misaligned m.size m.va = true := by simpa [misaligned] using hva
  obtain ⟨hty, -⟩ := preDecode_facts s hm
  obtain ⟨hload, hstore⟩ := dataPhase_misaligned_fault s ha
  have hd := dataPhase_misaligned s ha
  refine ⟨_, exec_failedAccess s hm (fun h => ?_) (fun h => ?_), raise_tookException _ _ ?_ ?_ ?_,
    raise_dataPhase_sameButFailedAccess s _ _ hty ?_, ?_, ?_, ?_⟩
  · rw [if_pos h]; exact hload h
  · rw [if_neg (by simp [h])]; exact hstore h
  all_goals simp [raise, hd]

end Sys2Proof.Machine
end

section
/-! PROOFS. The family of spec/43_m_extension.md: the model's halves, quotients and remainders in Lean's own word
arithmetic, and the division identity (R290-R298). -/

namespace Sys2Proof.Machine

/-! ## Completion (R221, R298) -/

/-- An instruction that does `writeRd` and nothing else completes as R221 says, for any spelling `v` of its value. -/
theorem completesWriting_of_exec {i : Instr} {s : State} {rd : Reg} {u v : Word}
    (h : exec i s = .next (s.writeRd rd u)) (huv : u = v) : completesWriting i s rd v :=
  ⟨_, h, fun q => by rw [reg_writeRd, huv], writeRd_pc s rd u, writeRd_sameButRegsPc s rd u⟩

/-- After a completion the written register, x0 apart, reads as the value. -/
theorem completesWriting.exists_reg {i : Instr} {s : State} {rd : Reg} {v : Word} (h : completesWriting i s rd v)
    (hrd : rd ≠ 0#5) : ∃ t, exec i s = .next t ∧ t.reg rd = v := by
  obtain ⟨t, hexec, hregs, -, -⟩ := h
  exact ⟨t, hexec, by rw [hregs rd, if_pos ⟨rfl, hrd⟩]⟩

/-! ## Products (R290-R293) -/

/-- The upper half of a 64-bit two's complement product is its floor division by 2^32. -/
theorem highWord_eq_ofInt (p : Int) : highWord p = BitVec.ofInt 32 (p / 2 ^ 32) := by
  apply BitVec.eq_of_toNat_eq
  simp only [highWord, BitVec.extractLsb'_toNat, BitVec.toNat_ofInt, Nat.shiftRight_eq_div_pow]
  omega

theorem highWord_natCast (n : Nat) : highWord (n : Int) = BitVec.ofNat 32 (n / 2 ^ 32) := by
  rw [highWord_eq_ofInt, ← BitVec.ofInt_natCast]
  norm_cast

/-! ## Quotients and remainders (R294-R297) -/

theorem sdiv_eq_ofInt_tdiv (a b : Word) : a.sdiv b = BitVec.ofInt 32 (a.toInt.tdiv b.toInt) := by
  apply BitVec.eq_of_toInt_eq
  rw [BitVec.toInt_sdiv, BitVec.toInt_ofInt]

theorem srem_eq_ofInt_tmod (a b : Word) : a.srem b = BitVec.ofInt 32 (a.toInt.tmod b.toInt) := by
  rw [← BitVec.toInt_srem, BitVec.ofInt_toInt]

/-- Lean's wrapping division gives -2^31 by -1 the value R294 defines, so only the zero divisor stays a corner. -/
theorem quotientSigned_eq_sdiv (a b : Word) :
    quotientSigned a b = if b = 0#32 then 0xFFFFFFFF#32 else a.sdiv b := by
  unfold quotientSigned
  split
  · rfl
  · split
    next h =>
      obtain ⟨rfl, rfl⟩ := h
      decide
    next => exact (sdiv_eq_ofInt_tdiv a b).symm

/-- The same corner of R296: Lean's remainder of -2^31 by -1 is 0. -/
theorem remainderSigned_eq_srem (a b : Word) :
    remainderSigned a b = if b = 0#32 then a else a.srem b := by
  unfold remainderSigned
  split
  · rfl
  · split
    next h =>
      obtain ⟨rfl, rfl⟩ := h
      decide
    next => rw [srem_eq_ofInt_tmod, Int.tmod_def]

theorem quotientUnsigned_eq_udiv (a b : Word) :
    quotientUnsigned a b = if b = 0#32 then 0xFFFFFFFF#32 else a / b := by
  rw [BitVec.udiv_def]
  rfl

theorem remainderUnsigned_eq_umod (a b : Word) :
    remainderUnsigned a b = if b = 0#32 then a else a % b := by
  rw [BitVec.umod_def]
  rfl

/-! ## The division identity (R296) -/

theorem sdiv_mul_add_srem (a b : Word) : a.sdiv b * b + a.srem b = a :=
  calc a.sdiv b * b + a.srem b
    _ = BitVec.ofInt 32 (a.toInt.tdiv b.toInt) * BitVec.ofInt 32 b.toInt + BitVec.ofInt 32 (a.toInt.tmod b.toInt) := by
        rw [sdiv_eq_ofInt_tdiv, srem_eq_ofInt_tmod, BitVec.ofInt_toInt]
    _ = BitVec.ofInt 32 (a.toInt.tdiv b.toInt * b.toInt + a.toInt.tmod b.toInt) := by
        rw [BitVec.ofInt_add, BitVec.ofInt_mul]
    _ = a := by rw [Int.tdiv_mul_add_tmod, BitVec.ofInt_toInt]

theorem udiv_mul_add_umod (a b : Word) : a / b * b + a % b = a := by
  apply BitVec.eq_of_toNat_eq
  rw [BitVec.toNat_add, BitVec.toNat_mul, BitVec.toNat_udiv, BitVec.toNat_umod, Nat.mod_add_mod, Nat.div_add_mod',
    Nat.mod_eq_of_lt a.isLt]

theorem srem_natAbs_lt (a : Word) {b : Word} (hb : b ≠ 0#32) : (a.srem b).toInt.natAbs < b.toInt.natAbs := by
  have hpos : 0 < b.toInt.natAbs := Int.natAbs_pos.2 fun h => hb (BitVec.eq_of_toInt_eq h)
  rw [BitVec.toInt_srem, Int.natAbs_tmod]
  exact Nat.mod_lt _ hpos

theorem umod_toNat_lt (a : Word) {b : Word} (hb : b ≠ 0#32) : (a % b).toNat < b.toNat := by
  have hpos : 0 < b.toNat := Nat.pos_of_ne_zero fun h => hb (BitVec.eq_of_toNat_eq h)
  rw [BitVec.toNat_umod]
  exact Nat.mod_lt _ hpos

/-- The remainder is 0 exactly when the divisor divides the dividend, and has the dividend's sign otherwise. -/
theorem srem_eq_zero_or_neg_iff (a b : Word) : a.srem b = 0#32 ∨ ((a.srem b).toInt < 0 ↔ a.toInt < 0) := by
  by_cases hdvd : b.toInt ∣ a.toInt
  · left
    rw [srem_eq_ofInt_tmod, Int.tmod_eq_zero_of_dvd hdvd]
    rfl
  · right
    have hsign : (a.srem b).toInt.sign = a.toInt.sign := by rw [BitVec.toInt_srem, Int.sign_tmod, if_neg hdvd]
    rw [← Int.sign_eq_neg_one_iff_neg, hsign, Int.sign_eq_neg_one_iff_neg]

/-! ## The obligations -/

/-- Settles O17: the model's low and high words are the product modulo 2^32 and its floor division by 2^32. -/
theorem multiplyResults : Obligations.MultiplyResults := fun s _ rs1 rs2 =>
  ⟨completesWriting_of_exec rfl (BitVec.eq_of_toNat_eq (by rw [BitVec.toNat_ofNat, BitVec.toNat_mul])),
    completesWriting_of_exec rfl (highWord_eq_ofInt _),
    completesWriting_of_exec rfl (highWord_eq_ofInt _),
    completesWriting_of_exec rfl (highWord_natCast ((s.reg rs1).toNat * (s.reg rs2).toNat))⟩

/-- Settles O18: the model's quotients and remainders are Lean's word divisions, the zero divisor apart. -/
theorem divideResults : Obligations.DivideResults := fun _ _ _ _ =>
  ⟨completesWriting_of_exec rfl (quotientSigned_eq_sdiv _ _),
    completesWriting_of_exec rfl (quotientUnsigned_eq_udiv _ _),
    completesWriting_of_exec rfl (remainderSigned_eq_srem _ _),
    completesWriting_of_exec rfl (remainderUnsigned_eq_umod _ _)⟩

/-- Settles O19: by O18 the four results are Lean's word divisions, for which the identity and the bounds hold. -/
theorem divisionIdentity : Obligations.DivisionIdentity := by
  intro s rs1 rs2 rd hrd hb
  obtain ⟨hdiv, hdivu, hrem, hremu⟩ := divideResults s rd rs1 rs2
  rw [if_neg hb] at hdiv hdivu hrem hremu
  obtain ⟨q, hq, hqv⟩ := hdiv.exists_reg hrd
  obtain ⟨r, hr, hrv⟩ := hrem.exists_reg hrd
  obtain ⟨qu, hqu, hquv⟩ := hdivu.exists_reg hrd
  obtain ⟨ru, hru, hruv⟩ := hremu.exists_reg hrd
  refine ⟨q, r, qu, ru, hq, hr, hqu, hru, ?_⟩
  rw [hqv, hrv, hquv, hruv]
  exact ⟨sdiv_mul_add_srem _ _, udiv_mul_add_umod _ _, srem_natAbs_lt _ hb, umod_toNat_lt _ hb,
    srem_eq_zero_or_neg_iff _ _⟩

end Sys2Proof.Machine
end

section
/-! PROOFS. The family of spec/44_a_extension.md: an error response to the write of an SC.W or an AMO (R314). -/

namespace Sys2Proof.Machine

/-! ## The write that follows Execute (R313, R314, R425) -/

/-- Execute leaves a filled latch; its write is the fault of log 9 where the slave answers an error. -/
theorem amoCommit_fillLatch_error {s : State} {pa : Word} (d v : Word) (strb : BitVec 4) (rd : Reg)
    (hw : ¬s.writesOk pa) : amoCommit ((s.fillLatch pa d strb).writeRd rd v) = .fault .amoWriteBusError :=
  amoCommit_error _ (by simp) (by simpa [State.writesOk] using hw)

section ReadAnswered
variable {s : State} {rs1 : Reg} {pa : Word} (ha : (s.reg rs1).toNat % 4 = 0) (hr : s.reaches (s.reg rs1) .store pa)
include ha hr

/-- The read of an SC.W or AMO latches the physical address its translation gave (R410). -/
theorem dataPhase_amoReq_paddr : (dataPhase (amoReq rs1 s) s).memop.paddr = pa := by
  rw [dataPhase_reaches s (m := amoReq rs1 s) ha hr, dataTransfer_memop]

/-- The read of an SC.W or AMO that is answered without an error leaves no fault for Execute to find. -/
theorem storeFault_dataPhase_amoReq (ho : s.readsOk pa) : storeFault (dataPhase (amoReq rs1 s) s) = none := by
  have hf := dataPhase_reaches_flags s (m := amoReq rs1 s) ha hr (by simp [amoReq]) (fun _ => ho)
  obtain ⟨-, -, haccess, hpage⟩ := dataStart_flags_data s
  exact storeFault_none _ (by rw [hf, haccess]) (by rw [hf, hpage])

variable (ho : s.readsOk pa) (hw : ¬s.writesOk pa)
include hw

/-- The read of an SC.W or AMO leaves the slave's answers to writes as they are. -/
theorem not_writesOk_dataPhase_amoReq :
    ¬(dataPhase (amoReq rs1 s) s).writesOk (dataPhase (amoReq rs1 s) s).memop.paddr := by
  rw [dataPhase_amoReq_paddr ha hr, State.writesOk, (dataPhase_slave s (by simp [amoReq])).1]
  exact hw

include ho

/-- Every AMO, whatever it computes, runs into the fault. -/
theorem amoBody_writeError (f : Word → Word → Word) (rd rs2 : Reg) :
    amoCommit (amoBody f rd rs1 rs2 (dataPhase (amoReq rs1 s) s)) = .fault .amoWriteBusError := by
  rw [amoBody_ok _ (storeFault_dataPhase_amoReq ha hr ho)]
  exact amoCommit_fillLatch_error _ _ _ rd (not_writesOk_dataPhase_amoReq ha hr hw)

/-- An SC.W whose reservation is held on its word fills the latch (R301), and so runs into the fault. -/
theorem scBody_writeError (rd rs2 : Reg) (hv : s.res.valid = true) (hres : s.res.addr = pa) :
    amoCommit (scBody rd rs1 rs2 (dataPhase (amoReq rs1 s) s)) = .fault .amoWriteBusError := by
  have hsucceeds : scSucceeds (dataPhase (amoReq rs1 s) s) = true := by
    simp [scSucceeds, dataPhase_amoReq_paddr ha hr, hv, hres]
  rw [scBody_success _ (storeFault_dataPhase_amoReq ha hr ho) hsucceeds]
  exact amoCommit_fillLatch_error _ _ _ rd (not_writesOk_dataPhase_amoReq ha hr hw)

end ReadAnswered

/-- Settles O33: the read leaves no fault, so Execute fills the latch with the word at `pa`, whose write is the fault. -/
theorem amoWriteErrorStops : Obligations.AmoWriteErrorStops := by
  intro s rd rs1 rs2 aq rl pa i hi ha hr ho hw
  rcases hi with hamo | ⟨rfl, hv, hres⟩
  · simp only [List.mem_cons, List.not_mem_nil, or_false] at hamo
    rcases hamo with rfl | rfl | rfl | rfl | rfl | rfl | rfl | rfl | rfl <;>
      exact amoBody_writeError ha hr ho hw _ rd rs2
  · exact scBody_writeError ha hr ho hw rd rs2 hv hres

end Sys2Proof.Machine
end

section
/-! PROOFS. The family of spec/50_execution_fsm.md: what the parts of a tick leave unchanged, the halted machine (R428)
and the limits (R429). -/

namespace Sys2Proof.Machine

/-! ## The bus phases (R401(a)-(c)) -/

/-- All but the bus view, the mirror and the UART stream, which are what phases (a) to (c) write, is as in `s`. -/
def State.sameButBusPhases (s t : State) : Prop :=
  { t with bus := s.bus, mirror := s.mirror, uartOut := s.uartOut } = s

theorem State.sameButBusPhases.trans {s t u : State} (h : s.sameButBusPhases t) (h' : t.sameButBusPhases u) :
    s.sameButBusPhases u :=
  Eq.trans (congrArg (fun v : State => { v with bus := s.bus, mirror := s.mirror, uartOut := s.uartOut }) h' :) h

section BusPhases
variable (inp : AxiIn) (o : AxiOut) (s : State)

theorem captureR_frame : s.sameButBusPhases (captureR inp o s) := by
  unfold captureR
  repeat' split
  all_goals rfl

theorem captureW_frame : s.sameButBusPhases (captureW inp o s) := by
  unfold captureW
  split <;> rfl

theorem captureB_frame : s.sameButBusPhases (captureB inp o s) := by
  unfold captureB
  split <;> rfl

theorem completeMmu_frame : s.sameButBusPhases (completeMmu s) := by
  unfold completeMmu
  split <;> rfl

theorem busPhases_frame : s.sameButBusPhases (busPhases inp s) :=
  .trans (t := { s with bus := { awHandshake inp.awready (arHandshake inp.arready s.bus) with
      axiIn := inp, axiOut := masterOutputs s.bus } }) rfl
    ((captureR_frame ..).trans ((captureW_frame ..).trans ((captureB_frame ..).trans (completeMmu_frame _))))

@[simp] theorem busPhases_x : (busPhases inp s).x = s.x := (congrArg State.x (busPhases_frame inp s) :)
@[simp] theorem busPhases_pc : (busPhases inp s).pc = s.pc := (congrArg State.pc (busPhases_frame inp s) :)
@[simp] theorem busPhases_priv : (busPhases inp s).priv = s.priv := (congrArg State.priv (busPhases_frame inp s) :)
@[simp] theorem busPhases_csr : (busPhases inp s).csr = s.csr := (congrArg State.csr (busPhases_frame inp s) :)
@[simp] theorem busPhases_res : (busPhases inp s).res = s.res := (congrArg State.res (busPhases_frame inp s) :)
@[simp] theorem busPhases_ctl : (busPhases inp s).ctl = s.ctl := (congrArg State.ctl (busPhases_frame inp s) :)

end BusPhases

/-! ## The end of a tick (R401(e), R431, R432) -/

section EndTick
variable (uart : Option Byte) (s : State)

/-- Time advances, the watchdog may report, and the status record is refreshed: nothing else. -/
theorem endTick_frame :
    { endTick uart s with
      ctl := { (endTick uart s).ctl with simTime := s.ctl.simTime, stallReported := s.ctl.stallReported }
      status := s.status } = s := by
  unfold endTick watchdog
  split <;> rfl

@[simp] theorem endTick_x : (endTick uart s).x = s.x := (congrArg State.x (endTick_frame uart s) :)
@[simp] theorem endTick_pc : (endTick uart s).pc = s.pc := (congrArg State.pc (endTick_frame uart s) :)
@[simp] theorem endTick_priv : (endTick uart s).priv = s.priv := (congrArg State.priv (endTick_frame uart s) :)
@[simp] theorem endTick_csr : (endTick uart s).csr = s.csr := (congrArg State.csr (endTick_frame uart s) :)
@[simp] theorem endTick_res : (endTick uart s).res = s.res := (congrArg State.res (endTick_frame uart s) :)
@[simp] theorem endTick_stage : (endTick uart s).stage = s.stage := (congrArg State.stage (endTick_frame uart s) :)

@[simp] theorem endTick_instCount : (endTick uart s).ctl.instCount = s.ctl.instCount :=
  (congrArg (fun u : State => u.ctl.instCount) (endTick_frame uart s) :)

@[simp] theorem endTick_success : (endTick uart s).ctl.success = s.ctl.success :=
  (congrArg (fun u : State => u.ctl.success) (endTick_frame uart s) :)

@[simp] theorem endTick_endReason : (endTick uart s).ctl.endReason = s.ctl.endReason :=
  (congrArg (fun u : State => u.ctl.endReason) (endTick_frame uart s) :)

@[simp] theorem endTick_simTime : (endTick uart s).ctl.simTime = s.ctl.simTime + 1#64 := by
  unfold endTick watchdog
  split <;> rfl

end EndTick

/-! ## Translation at the cycle level (R118, R440) -/

section TranslateCycle
variable (s : State)

theorem mmuHookRead_ctl (pa : Word) : (mmuHookRead s pa).2.ctl = s.ctl := by
  unfold mmuHookRead
  dsimp only
  split
  · rfl
  · split <;> rfl

theorem pteReadHook_ctl (pa : Word) : (pteReadHook s pa).2.ctl = s.ctl := by
  have hhook := mmuHookRead_ctl s pa
  unfold pteReadHook
  split
  · rfl
  · split
    · rfl
    · split
      next h => rwa [h] at hhook
      next => exact hhook

@[simp] theorem translateCycle_ctl (va : Word) (ty : Access) : (translateCycle s va ty).2.ctl = s.ctl := by
  unfold translateCycle translateWith
  split
  · exact walk_frame s pteReadHook (fun a b => b.ctl = a.ctl) (fun _ _ _ h h' => h'.trans h) pteReadHook_ctl va ty _
  · rfl

end TranslateCycle

/-! ## Execute (R420, R421) -/

/-- What Execute may write is as in `t`: registers, pc, mode, CSRs, flags, PTW cache, draws, store latch, reservation.
All else is as in `s`. -/
def State.sameButExecute (s t : State) : Prop :=
  { t with
    x := s.x, pc := s.pc, priv := s.priv, csr := s.csr, flags := s.flags, ptw := s.ptw, draws := s.draws
    latch := s.latch, res := s.res } = s

namespace State.sameButExecute
variable {s t u : State}

theorem trans (h : s.sameButExecute t) (h' : t.sameButExecute u) : s.sameButExecute u :=
  Eq.trans (congrArg (fun v : State => { v with
    x := s.x, pc := s.pc, priv := s.priv, csr := s.csr, flags := s.flags, ptw := s.ptw, draws := s.draws
    latch := s.latch, res := s.res }) h' :) h

theorem of_sameMachine (h : s.sameMachine t) : s.sameButExecute t := by
  obtain ⟨hstage, hword, -, hslave, hmirror, huart, -, hbus, hmemop, hpaddr, hctl, hstatus, hcfg⟩ := h
  exact State.eq_of_fields rfl rfl rfl rfl rfl rfl rfl rfl hstage hword hpaddr hmemop hbus hctl hstatus hmirror hslave
    huart rfl hcfg

/-- A change that Execute may make, then the result into `rd`. -/
theorem writeRd (h : s.sameButExecute t) (rd : Reg) (v : Word) : s.sameButExecute (t.writeRd rd v) :=
  h.trans (of_sameMachine (.writeRd rd v))

theorem ctl (h : s.sameButExecute t) : t.ctl = s.ctl := (congrArg State.ctl h :)

end State.sameButExecute

section Bodies
variable (s : State)

theorem loadBody_frame (va : Word) (rd : Reg) (v : Word) : s.sameButExecute (loadBody va rd v s) := by
  apply State.sameButExecute.of_sameMachine
  cases h : loadFault s with
  | some e => rw [loadBody_fault s h]; exact .raise ..
  | none => rw [loadBody_ok s h]; exact .writeRd ..

theorem storeBody_frame (va : Word) (n : Nat) (v : Word) : s.sameButExecute (storeBody va n v s) := by
  cases h : storeFault s with
  | some e => rw [storeBody_fault s h]; exact .of_sameMachine (.raise ..)
  | none => rw [storeBody_ok s h]; rfl

theorem lrBody_frame (rd rs1 : Reg) : s.sameButExecute (lrBody rd rs1 s) := by
  cases h : loadFault s with
  | some e => rw [lrBody_fault s h]; exact .of_sameMachine (.raise ..)
  | none => rw [lrBody_ok s h]; exact .writeRd (by rfl) ..

theorem scBody_frame (rd rs1 rs2 : Reg) : s.sameButExecute (scBody rd rs1 rs2 s) := by
  cases h : storeFault s with
  | some e => rw [scBody_fault s h]; exact .of_sameMachine (.raise ..)
  | none =>
    cases ok : scSucceeds s with
    | true => rw [scBody_success s h ok]; exact .writeRd (by rfl) ..
    | false => rw [scBody_failure s h ok]; exact .writeRd (by rfl) ..

theorem amoBody_frame (f : Word → Word → Word) (rd rs1 rs2 : Reg) : s.sameButExecute (amoBody f rd rs1 rs2 s) := by
  cases h : storeFault s with
  | some e => rw [amoBody_fault s h]; exact .of_sameMachine (.raise ..)
  | none => rw [amoBody_ok s h]; exact .writeRd (by rfl) ..

end Bodies

/-- Without a data access, Execute runs the instruction's whole meaning (R421). -/
theorem executeBody_noAccess {i : Instr} {s : State} (h : preDecode i s = none) : executeBody i s = exec i s := by
  cases i <;> simp [preDecode] at h <;> rfl

theorem executeBody_frame {i : Instr} {s t : State} (he : executeBody i s = .next t) : s.sameButExecute t := by
  cases hm : preDecode i s with
  | none =>
    rw [executeBody_noAccess hm] at he
    exact .of_sameMachine (exec_sameMachine hm he)
  | some m =>
    cases i <;> simp only [preDecode, reduceCtorEq] at hm <;> obtain rfl := Host.Outcome.next.inj he
    case lb | lh | lw | lbu | lhu => exact loadBody_frame ..
    case sb | sh | sw => exact storeBody_frame ..
    case lrW => exact lrBody_frame ..
    case scW => exact scBody_frame ..
    all_goals exact amoBody_frame ..

theorem execStage_frame {s t : State} (h : execStage s = .next t) : s.sameButExecute t := by
  refine .trans (t := s.beginExec) rfl ?_
  unfold execStage at h
  dsimp only at h
  split at h
  · cases h; exact .of_sameMachine (.trap ..)
  · split at h
    · cases h; exact .of_sameMachine (.raise ..)
    · split at h
      · cases h; exact .of_sameMachine (.raise ..)
      · split at h
        · cases h; exact .of_sameMachine .undecodable
        · exact executeBody_frame h

/-- Counting the instruction and draining the latch take no time of their own (R420, R422). -/
theorem afterExec_simTime (s : State) : (afterExec s).ctl.simTime = s.ctl.simTime := by
  unfold afterExec
  dsimp only
  split
  · rfl
  · split <;> rfl

/-! ## The stages (R402-R425) -/

section Stages
variable (s : State)

theorem beginFetch_ctl : (beginFetch s).ctl = s.ctl := by
  unfold beginFetch
  split <;> rfl

theorem stagePrepareFetch_ctl : (stagePrepareFetch s).ctl = s.ctl := by
  have h := (translateCycle_ctl { beginFetch s with flags.translationPending := false } (beginFetch s).pc .fetch).trans
    (beginFetch_ctl s)
  unfold stagePrepareFetch
  dsimp only
  split <;> rename_i heq <;> rw [heq] at h
  · exact h
  · simpa [fetchFailed] using h
  · simpa [fetchFailed] using h
  · split
    · exact h
    · simpa [fetchFailed] using h

theorem stageWaitFetch_ctl : (stageWaitFetch s).ctl = s.ctl := by
  unfold stageWaitFetch
  split
  · dsimp only
    split <;> rfl
  · rfl

theorem armData_ctl (m : MemReq) (pa : Word) : (armData m pa s).ctl = s.ctl := by
  unfold armData
  dsimp only
  split <;> rfl

theorem stagePrepareData_ctl : (stagePrepareData s).ctl = s.ctl := by
  unfold stagePrepareData
  dsimp only
  split
  · rfl
  next m _ =>
    have h := translateCycle_ctl { s with flags.translationPending := false } m.va m.type
    split
    · simp [State.goto]
    · split <;> rename_i heq <;> rw [heq] at h
      · exact h
      · simpa [State.goto] using h
      · simpa [State.goto] using h
      · split
        · exact (armData_ctl ..).trans h
        · simpa [State.goto] using h

theorem stageWaitData_ctl : (stageWaitData s).ctl = s.ctl := by
  unfold stageWaitData
  repeat' split
  all_goals simp [State.goto]

end Stages

theorem stageExecute_simTime {s t : State} (h : stageExecute s = .next t) : t.ctl.simTime = s.ctl.simTime := by
  unfold stageExecute at h
  split at h <;> cases h
  next u hu => rw [afterExec_simTime, (execStage_frame hu).ctl]

theorem stageWaitAmoWrite_ctl {s t : State} (h : stageWaitAmoWrite s = .next t) : t.ctl = s.ctl := by
  unfold stageWaitAmoWrite at h
  split at h
  · split at h <;> cases h
    rfl
  · cases h; rfl

/-- Time is counted at the end of the tick only, by no stage (R401(e)). -/
theorem stageTransition_simTime {s t : State} (h : stageTransition s = .next t) : t.ctl.simTime = s.ctl.simTime := by
  unfold stageTransition at h
  cases hst : s.stage <;> simp only [hst] at h
  case execute => exact stageExecute_simTime h
  case waitAmoWrite => rw [stageWaitAmoWrite_ctl h]
  all_goals cases h
  case prepareFetch => rw [stagePrepareFetch_ctl]
  case waitFetch => rw [stageWaitFetch_ctl]
  case prepareData => rw [stagePrepareData_ctl]
  case waitData => rw [stageWaitData_ctl]
  case halted => rfl

/-! ## Phase (d) (R429) -/

section Limits
variable {s : State}

theorem limitHalt_maxInst (h : s.ctl.maxInst ≤ s.ctl.instCount) :
    limitHalt s = some { s with stage := .halted, ctl := { s.ctl with success := true, endReason := .maxInst } } :=
  if_pos h

theorem limitHalt_maxCycles (h : s.ctl.instCount < s.ctl.maxInst) (h' : s.ctl.maxCycles ≤ s.ctl.simTime) :
    limitHalt s = some { s with stage := .halted, ctl := { s.ctl with success := false, endReason := .maxCycles } } :=
  (if_neg (BitVec.not_le.2 h)).trans (if_pos h')

theorem limitHalt_simTime {u : State} (h : limitHalt s = some u) : u.ctl.simTime = s.ctl.simTime := by
  unfold limitHalt at h
  split at h
  · cases h; rfl
  · split at h <;> cases h
    rfl

/-- A limit that is reached takes the place of the stage's transition. -/
theorem advanceStage_limitHalt {u : State} (h : limitHalt s = some u) : advanceStage s = .next u := by
  simp [advanceStage, h]

theorem advanceStage_simTime {u : State} (h : advanceStage s = .next u) : u.ctl.simTime = s.ctl.simTime := by
  unfold advanceStage at h
  split at h
  next hl => cases h; exact limitHalt_simTime hl
  next => exact stageTransition_simTime h

end Limits

/-! ## A tick (R400, R401) -/

theorem tick_halted {s : State} (inp : AxiIn) (h : s.stage = .halted) : tick inp s = .next (haltedTick s) := if_pos h

/-- The outputs are 0 and the status record up to date already. -/
theorem haltedTick_haltedTick (s : State) : haltedTick (haltedTick s) = haltedTick s := rfl

theorem step_halted {s : State} (h : s.stage = .halted) : step s = .next (haltedTick s) := if_pos h

/-- A tick that is not halted ends with what phase (d) makes of the bus phases. -/
theorem tick_eq_next_iff {s : State} (inp : AxiIn) (hs : s.stage ≠ .halted) (t : State) :
    tick inp s = .next t ↔
      ∃ u, advanceStage (busPhases inp s) = .next u ∧ endTick (uartEvent inp (masterOutputs s.bus) s) u = t := by
  unfold tick
  rw [if_neg hs]
  cases advanceStage (busPhases inp s) <;> simp

/-! ## The obligations -/

/-- Settles O10: a second `haltedTick` finds nothing to change, and only the end of a tick counts time. -/
theorem haltedMachineStays : Obligations.HaltedMachineStays := by
  refine ⟨fun s hs => ?_, fun inp s t hs ht => ?_⟩
  · have hstage : (haltedTick s).stage = .halted := hs
    have hstatus : (haltedTick s).status.halted = true := beq_iff_eq.2 hs
    have hagain : step (haltedTick s) = .next (haltedTick s) := by rw [step_halted hstage, haltedTick_haltedTick]
    exact ⟨haltedTick s, step_halted hs, fun inp => tick_halted inp hs, rfl, rfl, hstatus, if_pos hstage, hagain⟩
  · obtain ⟨u, hu, rfl⟩ := (tick_eq_next_iff inp hs t).1 ht
    rw [endTick_simTime, advanceStage_simTime hu, busPhases_ctl]

/-- Settles O11: the bus phases leave the counters and what a program sees alone, and the halt takes the place of the
stage's transition. -/
theorem limitsHaltTheMachine : Obligations.LimitsHaltTheMachine := by
  intro inp s hs
  have halts {u : State} (hu : limitHalt (busPhases inp s) = some u) :
      tick inp s = .next (endTick (uartEvent inp (masterOutputs s.bus) s) u) :=
    (tick_eq_next_iff inp hs _).2 ⟨u, advanceStage_limitHalt hu, rfl⟩
  constructor
  · intro hinst
    refine ⟨_, halts (limitHalt_maxInst (by simpa using hinst)), ?_⟩
    simp [State.returnCode]
  · intro hinst hcycles
    refine ⟨_, halts (limitHalt_maxCycles (by simpa using hinst) (by simpa using hcycles)), ?_⟩
    simp [State.returnCode, State.lastError]

end Sys2Proof.Machine
end

section
/-! PROOFS. The family of spec/60_exceptions.md: trap entry into the two modes, field by field (R520-R523), and which
interrupt is taken (R510, R512). -/

namespace Sys2Proof.Machine

/-! ## Trap entry (R520-R523) -/

section TrapEntry
variable (t : Trap) (s : State)

/-- No code reaches bit 31, so `cv` of R520 is a sum. -/
theorem trapCauseValue_eq_add :
    trapCauseValue t = (if trapIsInterrupt t then 0x80000000#32 else 0#32) + BitVec.ofNat 32 (trapCode t) := by
  cases t with
  | exc e => simp [trapCauseValue, trapIsInterrupt]
  | int j => cases j <;> rfl

theorem trapToS_iff :
    trapToS t s = true ↔ s.priv ≠ .m ∧
      (if trapIsInterrupt t then s.csr.mideleg else s.csr.medeleg).getLsbD (trapCode t) = true := by
  simp [trapToS]

theorem trapVector_eq_add (tvec : Word) :
    trapVector tvec t = (tvec &&& 0xFFFFFFFC#32) +
      (if tvec.getLsbD 0 = true ∧ trapIsInterrupt t = true then BitVec.ofNat 32 (4 * trapCode t) else 0#32) := by
  simp [trapVector]

theorem trapEntry_sameButTrap (v : Word) : s.sameButTrap (trapEntry t v s) := by
  cases h : trapToS t s
  · rw [trapEntry_notDelegated _ _ h]; rfl
  · rw [trapEntry_delegated _ _ h]; rfl

end TrapEntry

/-- MPIE takes MIE, MIE 0 and MPP the old mode (R522). -/
theorem getLsbD_mstatusIntoM (w : Word) (p : Priv) (k : Nat) :
    (mstatusIntoM w p).getLsbD k =
      if k = 7 then w.getLsbD 3 else if k = 3 then false
      else if k = 11 then p.toBits.getLsbD 0 else if k = 12 then p.toBits.getLsbD 1 else w.getLsbD k := by
  unfold mstatusIntoM mpieBit mieBit
  rw [getLsbD_setMpp, getLsbD_setBit _ _ _ _ (by decide), getLsbD_setBit _ _ _ _ (by decide)]
  grind

/-- Of the two modes from which a trap enters S, SPP tells S from U (R521). -/
theorem toBits_getLsbD_zero_of_ne_m {p : Priv} (h : p ≠ .m) : p.toBits.getLsbD 0 = (p == .s) := by
  cases p
  case m => contradiction
  all_goals rfl

/-- SPIE takes SIE, SIE 0 and SPP the old mode (R521). -/
theorem getLsbD_mstatusIntoS (w : Word) {p : Priv} (h : p ≠ .m) (k : Nat) :
    (mstatusIntoS w p).getLsbD k =
      if k = 5 then w.getLsbD 1 else if k = 1 then false else if k = 8 then p == .s else w.getLsbD k := by
  unfold mstatusIntoS spieBit sieBit sppBit
  rw [toBits_getLsbD_zero_of_ne_m h, getLsbD_setBit _ _ _ _ (by decide), getLsbD_setBit _ _ _ _ (by decide),
    getLsbD_setBit _ _ _ _ (by decide)]
  grind

/-! ## The interrupt flags (R512) and their order (R510) -/

/-- The flag `irq[c]` of one interrupt. -/
def Irq.flag (q : Irq) : Interrupt → Bool
  | .mei => q.mei
  | .msi => q.msi
  | .mti => q.mti
  | .sei => q.sei
  | .ssi => q.ssi
  | .sti => q.sti

theorem Irq.flag_iff_mem (q : Irq) (j : Interrupt) :
    q.flag j = true ↔ (j, true) ∈ [(Interrupt.mei, q.mei), (.msi, q.msi), (.mti, q.mti), (.sei, q.sei), (.ssi, q.ssi),
      (.sti, q.sti)] := by
  cases j <;> simp [Irq.flag]

theorem irqFlags_flag (s : State) (j : Interrupt) :
    (irqFlags s).flag j = (interruptCandidates s).getLsbD (interruptCode j) := by
  cases j <;> rfl

theorem mEnabled_iff (s : State) : mEnabled s = true ↔ s.priv ≠ .m ∨ s.csr.mstatus.getLsbD mieBit = true := by
  simp [mEnabled]

theorem sEnabled_iff (s : State) :
    sEnabled s = true ↔ s.priv = .u ∨ (s.priv = .s ∧ s.csr.mstatus.getLsbD sieBit = true) := by
  simp [sEnabled]

theorem getLsbD_ite_zero (b : Bool) (w : Word) (k : Nat) :
    (if b then w else 0#32).getLsbD k = (b && w.getLsbD k) := by
  cases b <;> simp

/-- The halves of `cand` do not meet: delegation says which level's enable a pending interrupt needs. -/
theorem getLsbD_interruptCandidates (s : State) {k : Nat} (hk : k < 32) :
    (interruptCandidates s).getLsbD k =
      (s.csr.mip.getLsbD k && s.csr.mie.getLsbD k && if s.csr.mideleg.getLsbD k then sEnabled s else mEnabled s) := by
  unfold interruptCandidates interruptPending
  simp only [BitVec.getLsbD_or, getLsbD_ite_zero, BitVec.getLsbD_and, BitVec.getLsbD_not, hk, decide_true,
    Bool.true_and]
  cases s.csr.mideleg.getLsbD k <;> simp [Bool.and_comm]

theorem irqFlags_flag_iff (s : State) (j : Interrupt) : (irqFlags s).flag j = true ↔ s.mayTake j := by
  have hcode : interruptCode j < 32 := by cases j <;> decide
  rw [irqFlags_flag, getLsbD_interruptCandidates s hcode, State.mayTake, ← mEnabled_iff, ← sEnabled_iff]
  cases s.csr.mideleg.getLsbD (interruptCode j) <;> simp [and_assoc]

theorem Interrupt.forall_iff {P : Interrupt → Prop} :
    (∀ k, P k) ↔ P .mei ∧ P .msi ∧ P .mti ∧ P .sei ∧ P .ssi ∧ P .sti :=
  ⟨fun h => ⟨h _, h _, h _, h _, h _, h _⟩, fun ⟨h1, h2, h3, h4, h5, h6⟩ k => by cases k <;> assumption⟩

/-- The chain of R510 answers the first interrupt whose flag is set. -/
theorem firstInterrupt_eq_some_iff (q : Irq) (j : Interrupt) :
    firstInterrupt q = some j ↔ q.flag j = true ∧ ∀ k, interruptRank k < interruptRank j → ¬q.flag k = true := by
  rw [Interrupt.forall_iff]
  cases j <;> simp only [firstInterrupt, interruptRank, Irq.flag] <;> grind

/-! ## The obligations -/

/-- Settles O49: `enterM` gives each field; the cause, the vector and `mstatus` each by its own lemma. -/
theorem trapEntersMachineMode : Obligations.TrapEntersMachineMode := by
  rintro t v s _ hS rfl
  have hframe := trapEntry_sameButTrap t s v
  rw [trapEntry_notDelegated s v hS] at hframe ⊢
  exact ⟨rfl, rfl, trapCauseValue_eq_add t, fun k _ => getLsbD_mstatusIntoM .., rfl, trapVector_eq_add .., rfl, rfl,
    rfl, hframe⟩

/-- Settles O50: `enterS` gives each field; a trap that enters S was raised below M, so SPP tells its mode. -/
theorem trapEntersSupervisorMode : Obligations.TrapEntersSupervisorMode := by
  rintro t v s _ rfl
  refine ⟨trapToS_iff t s, fun hS => ?_⟩
  have hpriv : s.priv ≠ .m := ((trapToS_iff t s).1 hS).1
  have hframe := trapEntry_sameButTrap t s v
  rw [trapEntry_delegated s v hS] at hframe ⊢
  exact ⟨rfl, rfl, trapCauseValue_eq_add t, fun k _ => getLsbD_mstatusIntoS _ hpriv k, rfl, trapVector_eq_add .., rfl,
    rfl, rfl, hframe⟩

/-- Settles O51: a flag is set iff its interrupt may be taken, and the first flag set decides. -/
theorem interruptsAreGatedAndOrdered : Obligations.InterruptsAreGatedAndOrdered := by
  intro s j
  refine ⟨(Irq.flag_iff_mem (irqFlags s) j).symm.trans (irqFlags_flag_iff s j), ?_⟩
  rw [takeableInterrupt, firstInterrupt_eq_some_iff]
  simp only [irqFlags_flag_iff]

end Sys2Proof.Machine
end

section
/-! PROOFS. The family of spec/30_encoding.md: decoding and encoding undo one another, and the decoder accepts exactly
the words of the opcode table (R142, R145, R151, R160). -/

namespace Sys2Proof

/-! ## The fields of the formats packed through R's -/

section PackedFields
variable (rs2 rs1 rd : Reg) (f3 : BitVec 3) (op : BitVec 7)

@[simp] theorem opcodeOf_packI (imm : BitVec 12) : opcodeOf (packI imm rs1 f3 rd op) = op := opcodeOf_packR ..
@[simp] theorem rdOf_packI (imm : BitVec 12) : rdOf (packI imm rs1 f3 rd op) = rd := rdOf_packR ..
@[simp] theorem funct3Of_packI (imm : BitVec 12) : funct3Of (packI imm rs1 f3 rd op) = f3 := funct3Of_packR ..
@[simp] theorem rs1Of_packI (imm : BitVec 12) : rs1Of (packI imm rs1 f3 rd op) = rs1 := rs1Of_packR ..

@[simp] theorem opcodeOf_packS (imm : BitVec 12) : opcodeOf (packS imm rs2 rs1 f3 op) = op := opcodeOf_packR ..
@[simp] theorem funct3Of_packS (imm : BitVec 12) : funct3Of (packS imm rs2 rs1 f3 op) = f3 := funct3Of_packR ..
@[simp] theorem rs1Of_packS (imm : BitVec 12) : rs1Of (packS imm rs2 rs1 f3 op) = rs1 := rs1Of_packR ..
@[simp] theorem rs2Of_packS (imm : BitVec 12) : rs2Of (packS imm rs2 rs1 f3 op) = rs2 := rs2Of_packR ..

@[simp] theorem opcodeOf_packB (off : BitVec 13) : opcodeOf (packB off rs2 rs1 f3 op) = op := opcodeOf_packR ..
@[simp] theorem funct3Of_packB (off : BitVec 13) : funct3Of (packB off rs2 rs1 f3 op) = f3 := funct3Of_packR ..
@[simp] theorem rs1Of_packB (off : BitVec 13) : rs1Of (packB off rs2 rs1 f3 op) = rs1 := rs1Of_packR ..
@[simp] theorem rs2Of_packB (off : BitVec 13) : rs2Of (packB off rs2 rs1 f3 op) = rs2 := rs2Of_packR ..

@[simp] theorem aqOf_packR (f5 : BitVec 5) (aq rl : Bool) : aqOf (packR (amoFunct7 f5 aq rl) rs2 rs1 f3 rd op) = aq := by
  rw [aqOf_eq, funct7Of_packR, amoFunct7_aq]
@[simp] theorem rlOf_packR (f5 : BitVec 5) (aq rl : Bool) : rlOf (packR (amoFunct7 f5 aq rl) rs2 rs1 f3 rd op) = rl := by
  rw [rlOf_eq, funct7Of_packR, amoFunct7_rl]

@[simp] theorem opcodeOf_packU (imm : BitVec 20) : opcodeOf (packU imm rd op) = op := opcodeOf_packR ..
@[simp] theorem rdOf_packU (imm : BitVec 20) : rdOf (packU imm rd op) = rd := rdOf_packR ..

end PackedFields

/-! ## Decoding an encoding -/

/-- SFENCE.VMA's words are none of the five whole words of funct3 000. -/
theorem decodePriv_sfence {w : Word} (h7 : funct7Of w = 0b0001001#7) (hd : rdOf w = 0b00000#5) :
    decodePriv w = .ok (.sfenceVma (rs1Of w) (rs2Of w)) := by
  unfold decodePriv
  split
  case h_6 => rw [if_pos ⟨h7, hd⟩]
  all_goals exact absurd h7 (by decide)

/-- The twelve bits of FENCE are its three fields. -/
theorem fenceField_fields (fm pred succ : BitVec 4) :
    (fenceField fm pred succ).extractLsb' 8 4 = fm ∧ (fenceField fm pred succ).extractLsb' 4 4 = pred ∧
      (fenceField fm pred succ).extractLsb' 0 4 = succ := by
  refine ⟨?_, ?_, ?_⟩ <;> apply BitVec.eq_of_getLsbD_eq <;> intro i hi <;>
    simp only [fenceField, BitVec.getLsbD_or, BitVec.getLsbD_shiftLeft, BitVec.getLsbD_setWidth,
      BitVec.getLsbD_extractLsb'] <;> grind

theorem extractLsb'_eq_immIOf (w : Word) {k : Nat} (_hk : k + 4 ≤ 12) :
    w.extractLsb' (20 + k) 4 = (immIOf w).extractLsb' k 4 := by
  apply BitVec.eq_of_getLsbD_eq
  intro i hi
  simp only [immIOf, BitVec.getLsbD_extractLsb']
  grind

theorem decodeMiscMem_fence (fm pred succ : BitVec 4) (rs1 rd : Reg) :
    decodeMiscMem (packI (fenceField fm pred succ) rs1 0b000#3 rd 0b0001111#7) = .ok (.fence fm pred succ rs1 rd) := by
  obtain ⟨hf, hp, hs⟩ := fenceField_fields fm pred succ
  simp only [decodeMiscMem, funct3Of_packI, rs1Of_packI, rdOf_packI, extractLsb'_eq_immIOf _ (k := 8) (by decide),
    extractLsb'_eq_immIOf _ (k := 4) (by decide), extractLsb'_eq_immIOf _ (k := 0) (by decide), immIOf_packI, hf, hp, hs]

/-- Settles O2: instruction by instruction, every field comes back from the packed word. -/
theorem decodeEncodeRoundTrip : Obligations.DecodeEncodeRoundTrip := by
  intro i hwf
  cases i
  case ecall | ebreak | sret | mret | wfi => decide
  case lui | auipc => simp [encode, decode]
  case jal rd off => simp [encode, decode, offJOf_packJ _ _ hwf]
  case jalr => simp [encode, decode, decodeJalr]
  case beq off | bne off | blt off | bge off | bltu off | bgeu off =>
    simp [encode, decode, decodeBranch, offBOf_packB _ _ _ _ hwf]
  case lb | lh | lw | lbu | lhu => simp [encode, decode, decodeLoad]
  case sb | sh | sw => simp [encode, decode, decodeStore]
  case addi | slti | sltiu | xori | ori | andi | slli => simp [encode, decode, decodeOpImm]
  case srli | srai => simp [encode, decode, decodeOpImm, decodeShiftRightImm]
  case add | sll | slt | sltu | xor | srl | or | and => simp [encode, decode, decodeOp, decodeOpBase]
  case sub | sra => simp [encode, decode, decodeOp, decodeOpAlt]
  case mul | mulh | mulhsu | mulhu | div | divu | rem | remu => simp [encode, decode, decodeOp, decodeOpMul]
  case fence => simp [encode, decode, decodeMiscMem_fence]
  case fenceI => simp [encode, decode, decodeMiscMem]
  case sfenceVma => simp [encode, decode, decodeSystem, decodePriv_sfence]
  case lrW | scW | amoswapW | amoaddW | amoxorW | amoandW | amoorW | amominW | amomaxW | amominuW | amomaxuW =>
    simp [encode, decode, decodeAmo, decodeAmoWord, funct5Of_eq]
  case csrrw | csrrs | csrrc | csrrwi | csrrsi | csrrci => simp [encode, decode, decodeSystem]
  case faddS | fsubS | fmulS | fdivS | fsqrtS => simp [encode, decode, decodeOpFp]
  case fsgnjS | fsgnjnS | fsgnjxS => simp [encode, decode, decodeOpFp, decodeSignInject]
  case fminS | fmaxS => simp [encode, decode, decodeOpFp, decodeMinMax]
  case fcvtWS | fcvtWuS => simp [encode, decode, decodeOpFp, decodeFcvtToInt]
  case fcvtSW | fcvtSWu => simp [encode, decode, decodeOpFp, decodeFcvtFromInt]
  case feqS | fltS | fleS => simp [encode, decode, decodeOpFp, decodeFcmp]
  case fclassS => simp [encode, decode, decodeOpFp, decodeFclass]
  case fmaddS | fmsubS | fnmsubS | fnmaddS => simp [encode, decode, decodeFused, fmtOf_eq, funct5Of_eq]

/-! ## A word as the encoding of its own fields -/

section OwnFields
variable {w : Word} {f7 : BitVec 7} {f3 : BitVec 3} {op : BitVec 7}

theorem packR_eq (h7 : funct7Of w = f7) (h3 : funct3Of w = f3) (ho : opcodeOf w = op) :
    packR f7 (rs2Of w) (rs1Of w) f3 (rdOf w) op = w := by
  rw [← h7, ← h3, ← ho, packR_fields]

theorem packI_eq (h3 : funct3Of w = f3) (ho : opcodeOf w = op) :
    packI (immIOf w) (rs1Of w) f3 (rdOf w) op = w := by
  rw [packI, ← funct7Of_eq_immIOf, ← rs2Of_eq_immIOf, packR_eq rfl h3 ho]

theorem packS_eq (h3 : funct3Of w = f3) (ho : opcodeOf w = op) :
    packS (immSOf w) (rs2Of w) (rs1Of w) f3 op = w := by
  subst h3 ho
  apply BitVec.eq_of_getLsbD_eq
  intro i hi
  simp only [packS, packR, immSOf, rs2Of, rs1Of, funct3Of, opcodeOf, BitVec.getLsbD_or, BitVec.getLsbD_shiftLeft,
    BitVec.getLsbD_setWidth, BitVec.getLsbD_extractLsb']
  grind

theorem packB_eq (h3 : funct3Of w = f3) (ho : opcodeOf w = op) :
    packB (offBOf w) (rs2Of w) (rs1Of w) f3 op = w := by
  subst h3 ho
  apply BitVec.eq_of_getLsbD_eq
  intro i hi
  simp only [packB, packR, offBOf, rs2Of, rs1Of, funct3Of, opcodeOf, BitVec.getLsbD_or, BitVec.getLsbD_shiftLeft,
    BitVec.getLsbD_setWidth, BitVec.getLsbD_extractLsb']
  grind

theorem packU_eq (ho : opcodeOf w = op) : packU (immUOf w) (rdOf w) op = w := by
  subst ho
  apply BitVec.eq_of_getLsbD_eq
  intro i hi
  simp only [packU, packR, immUOf, rdOf, opcodeOf, BitVec.getLsbD_or, BitVec.getLsbD_shiftLeft,
    BitVec.getLsbD_setWidth, BitVec.getLsbD_extractLsb']
  grind

theorem jField_offJOf (w : Word) : jField (offJOf w) = immUOf w := by
  apply BitVec.eq_of_getLsbD_eq
  intro i hi
  simp only [jField, offJOf, immUOf, BitVec.getLsbD_or, BitVec.getLsbD_shiftLeft, BitVec.getLsbD_setWidth,
    BitVec.getLsbD_extractLsb']
  grind

theorem fenceField_eq (w : Word) :
    fenceField (w.extractLsb' 28 4) (w.extractLsb' 24 4) (w.extractLsb' 20 4) = immIOf w := by
  apply BitVec.eq_of_getLsbD_eq
  intro i hi
  simp only [fenceField, immIOf, BitVec.getLsbD_or, BitVec.getLsbD_shiftLeft, BitVec.getLsbD_setWidth,
    BitVec.getLsbD_extractLsb']
  grind

theorem funct7Of_eq_amoFunct7 {f5 : BitVec 5} (h5 : funct5Of w = f5) :
    funct7Of w = amoFunct7 f5 (aqOf w) (rlOf w) := by
  rw [← h5, funct5Of_eq, aqOf_eq, rlOf_eq]
  generalize funct7Of w = x
  revert x; decide

theorem funct7Of_eq_r4Funct7 (h : fmtOf w = 0b00#2) : funct7Of w = r4Funct7 (funct5Of w) := by
  rw [fmtOf_eq] at h
  rw [funct5Of_eq]
  generalize funct7Of w = x at h
  revert x; decide

end OwnFields

/-! ## Encoding what a word decodes to -/

section Decoded
variable {w : Word} {i : Instr}

theorem encode_of_decodeLoad (ho : opcodeOf w = 0b0000011#7) (h : decodeLoad w = .ok i) : encode i = w := by
  unfold decodeLoad at h
  split at h <;> cases h
  all_goals exact packI_eq ‹_› ho

theorem encode_of_decodeStore (ho : opcodeOf w = 0b0100011#7) (h : decodeStore w = .ok i) : encode i = w := by
  unfold decodeStore at h
  split at h <;> cases h
  all_goals exact packS_eq ‹_› ho

theorem encode_of_decodeBranch (ho : opcodeOf w = 0b1100011#7) (h : decodeBranch w = .ok i) : encode i = w := by
  unfold decodeBranch at h
  split at h <;> cases h
  all_goals exact packB_eq ‹_› ho

/-- The arm `_` of a table with the other seven values of funct3. -/
theorem funct3_eq_seven {f : BitVec 3} (h0 : f ≠ 0#3) (h1 : f ≠ 1#3) (h2 : f ≠ 2#3) (h3 : f ≠ 3#3) (h4 : f ≠ 4#3)
    (h5 : f ≠ 5#3) (h6 : f ≠ 6#3) : f = 7#3 := by
  bv_omega

theorem encode_of_decodeOpImm (ho : opcodeOf w = 0b0010011#7) (h : decodeOpImm w = .ok i) : encode i = w := by
  unfold decodeOpImm at h
  split at h
  case h_7 h3 =>
    split at h <;> cases h
    exact packR_eq ‹_› h3 ho
  case h_8 h0 h2 h3 h4 h6 h7 h1 =>
    have h5 : funct3Of w = 0b101#3 := by generalize funct3Of w = f at *; revert f; decide
    unfold decodeShiftRightImm at h
    split at h <;> cases h
    all_goals exact packR_eq ‹_› h5 ho
  all_goals
    cases h
    exact packI_eq ‹_› ho

theorem encode_of_decodeOp (ho : opcodeOf w = 0b0110011#7) (h : decodeOp w = .ok i) : encode i = w := by
  unfold decodeOp at h
  split at h
  case h_1 h7 =>
    unfold decodeOpBase at h
    split at h <;> cases h
    case h_8 => exact packR_eq h7 (funct3_eq_seven ‹_› ‹_› ‹_› ‹_› ‹_› ‹_› ‹_›) ho
    all_goals exact packR_eq h7 ‹_› ho
  case h_2 h7 =>
    unfold decodeOpAlt at h
    split at h <;> cases h
    all_goals exact packR_eq h7 ‹_› ho
  case h_3 h7 =>
    unfold decodeOpMul at h
    split at h <;> cases h
    case h_8 => exact packR_eq h7 (funct3_eq_seven ‹_› ‹_› ‹_› ‹_› ‹_› ‹_› ‹_›) ho
    all_goals exact packR_eq h7 ‹_› ho
  case h_4 => cases h

theorem encode_of_decodeJalr (ho : opcodeOf w = 0b1100111#7) (h : decodeJalr w = .ok i) : encode i = w := by
  unfold decodeJalr at h
  split at h <;> cases h
  exact packI_eq ‹_› ho

theorem encode_of_decodeMiscMem (ho : opcodeOf w = 0b0001111#7) (h : decodeMiscMem w = .ok i) : encode i = w := by
  unfold decodeMiscMem at h
  split at h <;> cases h
  case h_1 h3 =>
    rw [encode, fenceField_eq]
    exact packI_eq h3 ho
  case h_2 h3 => exact packI_eq h3 ho

theorem encode_of_decodeAmo (ho : opcodeOf w = 0b0101111#7) (h : decodeAmo w = .ok i) : encode i = w := by
  unfold decodeAmo at h
  split at h
  case isFalse => cases h
  case isTrue h3 =>
    have hw {f5 : BitVec 5} (h5 : funct5Of w = f5) :
        packR (amoFunct7 f5 (aqOf w) (rlOf w)) (rs2Of w) (rs1Of w) 0b010#3 (rdOf w) 0b0101111#7 = w :=
      packR_eq (funct7Of_eq_amoFunct7 h5) h3 ho
    unfold decodeAmoWord at h
    split at h
    case h_1 h5 =>
      split at h <;> cases h
      case isTrue h2 =>
        rw [encode, ← h2]
        exact hw h5
    all_goals cases h <;> exact hw ‹_›

theorem encode_of_decodePriv (ho : opcodeOf w = 0b1110011#7) (h3 : funct3Of w = 0b000#3) (h : decodePriv w = .ok i) :
    encode i = w := by
  unfold decodePriv at h
  split at h
  case h_6 =>
    split at h <;> cases h
    case isTrue h7 =>
      obtain ⟨h7, hd⟩ := h7
      rw [encode, ← hd]
      exact packR_eq h7 h3 ho
  all_goals
    cases h
    rfl

theorem encode_of_decodeSystem (ho : opcodeOf w = 0b1110011#7) (h : decodeSystem w = .ok i) : encode i = w := by
  unfold decodeSystem at h
  split at h
  case h_1 h3 => exact encode_of_decodePriv ho h3 h
  all_goals cases h <;> exact packI_eq ‹_› ho

/-- The tables of OP-FP by funct3, with funct7 fixed. -/
theorem encode_of_decodeFpByFunct3 (ho : opcodeOf w = 0b1010011#7)
    (h : funct7Of w = 0b0010000#7 ∧ decodeSignInject w = .ok i ∨ funct7Of w = 0b0010100#7 ∧ decodeMinMax w = .ok i ∨
      funct7Of w = 0b1010000#7 ∧ decodeFcmp w = .ok i) : encode i = w := by
  rcases h with ⟨h7, h⟩ | ⟨h7, h⟩ | ⟨h7, h⟩
  · unfold decodeSignInject at h
    split at h <;> cases h
    all_goals exact packR_eq h7 ‹_› ho
  · unfold decodeMinMax at h
    split at h <;> cases h
    all_goals exact packR_eq h7 ‹_› ho
  · unfold decodeFcmp at h
    split at h <;> cases h
    all_goals exact packR_eq h7 ‹_› ho

/-- A word whose rs2 field is fixed too. -/
theorem packR_eq_rs2 {f7 : BitVec 7} {r2 : Reg} {f3 : BitVec 3} {op : BitVec 7} (h7 : funct7Of w = f7)
    (h2 : rs2Of w = r2) (h3 : funct3Of w = f3) (ho : opcodeOf w = op) :
    packR f7 r2 (rs1Of w) f3 (rdOf w) op = w := by
  rw [← h2, packR_eq h7 h3 ho]

/-- The tables of OP-FP by rs2, with funct7 fixed. -/
theorem encode_of_decodeFpByRs2 (ho : opcodeOf w = 0b1010011#7)
    (h : funct7Of w = 0b1100000#7 ∧ decodeFcvtToInt w = .ok i ∨ funct7Of w = 0b1101000#7 ∧ decodeFcvtFromInt w = .ok i ∨
      funct7Of w = 0b1110000#7 ∧ decodeFclass w = .ok i) : encode i = w := by
  rcases h with ⟨h7, h⟩ | ⟨h7, h⟩ | ⟨h7, h⟩
  · unfold decodeFcvtToInt at h
    split at h <;> cases h
    all_goals exact packR_eq_rs2 h7 ‹_› rfl ho
  · unfold decodeFcvtFromInt at h
    split at h <;> cases h
    all_goals exact packR_eq_rs2 h7 ‹_› rfl ho
  · unfold decodeFclass at h
    split at h
    · split at h <;> cases h
      exact packR_eq_rs2 h7 ‹_› ‹_› ho
    · cases h

theorem encode_of_decodeOpFp (ho : opcodeOf w = 0b1010011#7) (h : decodeOpFp w = .ok i) : encode i = w := by
  unfold decodeOpFp at h
  split at h
  case h_5 h7 =>
    split at h <;> cases h
    exact packR_eq_rs2 h7 ‹_› rfl ho
  case h_6 h7 => exact encode_of_decodeFpByFunct3 ho (.inl ⟨h7, h⟩)
  case h_7 h7 => exact encode_of_decodeFpByFunct3 ho (.inr (.inl ⟨h7, h⟩))
  case h_8 h7 => exact encode_of_decodeFpByRs2 ho (.inl ⟨h7, h⟩)
  case h_9 h7 => exact encode_of_decodeFpByRs2 ho (.inr (.inl ⟨h7, h⟩))
  case h_10 h7 => exact encode_of_decodeFpByFunct3 ho (.inr (.inr ⟨h7, h⟩))
  case h_11 h7 => exact encode_of_decodeFpByRs2 ho (.inr (.inr ⟨h7, h⟩))
  case h_12 => cases h
  all_goals
    cases h
    exact packR_eq ‹_› rfl ho

theorem encode_of_decodeFused {mk : Reg → Reg → Reg → Reg → BitVec 3 → Instr} {op : BitVec 7}
    (hmk : ∀ rd rs1 rs2 rs3 rm, encode (mk rd rs1 rs2 rs3 rm) = packR (r4Funct7 rs3) rs2 rs1 rm rd op)
    (ho : opcodeOf w = op) (h : decodeFused mk w = .ok i) : encode i = w := by
  unfold decodeFused at h
  split at h <;> cases h
  rw [hmk]
  exact packR_eq (funct7Of_eq_r4Funct7 ‹_›) rfl ho

end Decoded

/-- Settles O3: opcode by opcode, the instruction's fields are the word's, packed where they were found. -/
theorem encodeDecodeRoundTrip : Obligations.EncodeDecodeRoundTrip := by
  intro w i h
  unfold decode at h
  split at h
  case h_1 ho => exact encode_of_decodeLoad ho h
  case h_2 ho => exact encode_of_decodeMiscMem ho h
  case h_3 ho => exact encode_of_decodeOpImm ho h
  case h_4 ho => cases h; exact packU_eq ho
  case h_5 ho => exact encode_of_decodeStore ho h
  case h_6 ho => exact encode_of_decodeAmo ho h
  case h_7 ho => exact encode_of_decodeOp ho h
  case h_8 ho => cases h; exact packU_eq ho
  case h_9 ho => exact encode_of_decodeFused (fun _ _ _ _ _ => rfl) ho h
  case h_10 ho => exact encode_of_decodeFused (fun _ _ _ _ _ => rfl) ho h
  case h_11 ho => exact encode_of_decodeFused (fun _ _ _ _ _ => rfl) ho h
  case h_12 ho => exact encode_of_decodeFused (fun _ _ _ _ _ => rfl) ho h
  case h_13 ho => exact encode_of_decodeOpFp ho h
  case h_14 ho => exact encode_of_decodeBranch ho h
  case h_15 ho => exact encode_of_decodeJalr ho h
  case h_16 ho =>
    cases h
    rw [encode, jField_offJOf]
    exact packU_eq ho
  case h_17 ho => exact encode_of_decodeSystem ho h
  case h_18 => split at h <;> cases h

end Sys2Proof
end

section
/-! PROOFS. The family of spec/30_encoding.md, continued: the decoder accepts exactly the words of the opcode table
(R151, R160). -/

namespace Sys2Proof

/-! ## The opcode table (R151) -/

section LiteralFields
variable (k : Nat)

theorem opcodeOf_ofNat : opcodeOf (BitVec.ofNat 32 k) = BitVec.ofNat 7 k := by
  apply BitVec.eq_of_toNat_eq
  simp only [opcodeOf, BitVec.extractLsb'_toNat, BitVec.toNat_ofNat, Nat.shiftRight_eq_div_pow]
  omega

theorem rdOf_ofNat : rdOf (BitVec.ofNat 32 k) = BitVec.ofNat 5 (k / 2 ^ 7) := by
  apply BitVec.eq_of_toNat_eq
  simp only [rdOf, BitVec.extractLsb'_toNat, BitVec.toNat_ofNat, Nat.shiftRight_eq_div_pow]
  omega

theorem funct3Of_ofNat : funct3Of (BitVec.ofNat 32 k) = BitVec.ofNat 3 (k / 2 ^ 12) := by
  apply BitVec.eq_of_toNat_eq
  simp only [funct3Of, BitVec.extractLsb'_toNat, BitVec.toNat_ofNat, Nat.shiftRight_eq_div_pow]
  omega

theorem rs1Of_ofNat : rs1Of (BitVec.ofNat 32 k) = BitVec.ofNat 5 (k / 2 ^ 15) := by
  apply BitVec.eq_of_toNat_eq
  simp only [rs1Of, BitVec.extractLsb'_toNat, BitVec.toNat_ofNat, Nat.shiftRight_eq_div_pow]
  omega

theorem rs2Of_ofNat : rs2Of (BitVec.ofNat 32 k) = BitVec.ofNat 5 (k / 2 ^ 20) := by
  apply BitVec.eq_of_toNat_eq
  simp only [rs2Of, BitVec.extractLsb'_toNat, BitVec.toNat_ofNat, Nat.shiftRight_eq_div_pow]
  omega

theorem funct7Of_ofNat : funct7Of (BitVec.ofNat 32 k) = BitVec.ofNat 7 (k / 2 ^ 25) := by
  apply BitVec.eq_of_toNat_eq
  simp only [funct7Of, BitVec.extractLsb'_toNat, BitVec.toNat_ofNat, Nat.shiftRight_eq_div_pow]
  omega

end LiteralFields

/-- A row, whose mask and value are the numbers `m` and `v`, covers a word iff the word's fields under the mask's are the
value's. -/
theorem covers_iff_fields (n : String) (m v : Nat) (w : Word) :
    TableRow.covers ⟨n, BitVec.ofNat 32 m, BitVec.ofNat 32 v⟩ w = true ↔
    funct7Of w &&& BitVec.ofNat 7 (m / 2 ^ 25) = BitVec.ofNat 7 (v / 2 ^ 25) ∧
    rs2Of w &&& BitVec.ofNat 5 (m / 2 ^ 20) = BitVec.ofNat 5 (v / 2 ^ 20) ∧
    rs1Of w &&& BitVec.ofNat 5 (m / 2 ^ 15) = BitVec.ofNat 5 (v / 2 ^ 15) ∧
    funct3Of w &&& BitVec.ofNat 3 (m / 2 ^ 12) = BitVec.ofNat 3 (v / 2 ^ 12) ∧
    rdOf w &&& BitVec.ofNat 5 (m / 2 ^ 7) = BitVec.ofNat 5 (v / 2 ^ 7) ∧
    opcodeOf w &&& BitVec.ofNat 7 m = BitVec.ofNat 7 v := by
  rw [TableRow.covers, beq_iff_eq]
  dsimp only
  rw [← opcodeOf_ofNat m, ← opcodeOf_ofNat v, ← rdOf_ofNat m, ← rdOf_ofNat v, ← funct3Of_ofNat m, ← funct3Of_ofNat v,
    ← rs1Of_ofNat m, ← rs1Of_ofNat v, ← rs2Of_ofNat m, ← rs2Of_ofNat v, ← funct7Of_ofNat m, ← funct7Of_ofNat v]
  generalize BitVec.ofNat 32 m = mask
  generalize BitVec.ofNat 32 v = value
  have hand := packR_and (funct7Of w) (rs2Of w) (rs1Of w) (rdOf w) (funct3Of w) (opcodeOf w) (funct7Of mask)
    (rs2Of mask) (rs1Of mask) (rdOf mask) (funct3Of mask) (opcodeOf mask)
  rw [packR_fields, packR_fields] at hand
  constructor
  · intro h
    rw [← h, hand]
    simp
  · rintro ⟨h7, h2, h1, h3, hd, ho⟩
    rw [hand, h7, h2, h1, h3, hd, ho, packR_fields]

section MaskedFields

theorem and_full3 (x : BitVec 3) : x &&& 7#3 = x := BitVec.and_allOnes
theorem and_full5 (x : BitVec 5) : x &&& 31#5 = x := BitVec.and_allOnes
theorem and_full7 (x : BitVec 7) : x &&& 127#7 = x := BitVec.and_allOnes

/-- The mask of format R-amo keeps funct5. -/
theorem funct5Of_of_and_amo {w : Word} {v : BitVec 7} (h : funct7Of w &&& 124#7 = v) :
    funct5Of w = v.extractLsb' 2 5 := by
  rw [funct5Of_eq, ← h]
  generalize funct7Of w = x
  revert x; decide

/-- The mask of format R4 keeps fmt. -/
theorem fmtOf_of_and_r4 {w : Word} (h : funct7Of w &&& 3#7 = 0#7) : fmtOf w = 0#2 := by
  rw [fmtOf_eq]
  generalize funct7Of w = x at h
  revert x; decide

end MaskedFields

/-- The word decodes to an instruction with the row's mnemonic. -/
def TableRow.decodes (r : TableRow) (w : Word) : Prop := (decode w).map Instr.mnemonic = .ok r.mnemonic

/-! ### Each row's words decode to the row's instruction -/

theorem tableBase_decodes : ∀ r ∈ tableBase, ∀ w, r.covers w = true → r.decodes w := by
  intro r hr w h
  unfold tableBase at hr
  fin_cases hr <;> simp [covers_iff_fields, and_full3, and_full7] at h <;>
    simp [TableRow.decodes, decode, h, decodeJalr, decodeBranch, decodeLoad, decodeStore, decodeOpImm, decodeShiftRightImm,
      decodeOp, decodeOpBase, decodeOpAlt, Except.map, Instr.mnemonic]

theorem tableSystem_decodes : ∀ r ∈ tableSystem, ∀ w, r.covers w = true → r.decodes w := by
  intro r hr w h
  unfold tableSystem at hr
  fin_cases hr
  -- SFENCE.VMA, the eighth row, is the one with operands under a fixed funct7
  pick_goal 8
  · simp [covers_iff_fields, and_full3, and_full5, and_full7] at h
    obtain ⟨h7, h3, hd, ho⟩ := h
    simp [TableRow.decodes, decode, ho, decodeSystem, h3, decodePriv_sfence h7 hd, Except.map, Instr.mnemonic]
  -- FENCE and FENCE.I are told apart by funct3
  iterate 2
    next =>
      simp [covers_iff_fields, and_full3, and_full7] at h
      simp [TableRow.decodes, decode, h, decodeMiscMem, Except.map, Instr.mnemonic]
  -- the other rows mask every bit
  all_goals
    obtain rfl : w = _ := by simpa only [TableRow.covers, beq_iff_eq] using BitVec.and_allOnes.symm.trans (beq_iff_eq.1 h)
    rfl

theorem tableM_decodes : ∀ r ∈ tableM, ∀ w, r.covers w = true → r.decodes w := by
  intro r hr w h
  unfold tableM at hr
  fin_cases hr <;> simp [covers_iff_fields, and_full3, and_full7] at h <;>
    simp [TableRow.decodes, decode, h, decodeOp, decodeOpMul, Except.map, Instr.mnemonic]

theorem tableA_decodes : ∀ r ∈ tableA, ∀ w, r.covers w = true → r.decodes w := by
  intro r hr w h
  unfold tableA at hr
  fin_cases hr <;> simp [covers_iff_fields, and_full3, and_full5, and_full7] at h <;>
    simp [TableRow.decodes, decode, h, decodeAmo, decodeAmoWord, funct5Of_of_and_amo h.1, Except.map, Instr.mnemonic]

theorem tableCsr_decodes : ∀ r ∈ tableCsr, ∀ w, r.covers w = true → r.decodes w := by
  intro r hr w h
  unfold tableCsr at hr
  fin_cases hr <;> simp [covers_iff_fields, and_full3, and_full7] at h <;>
    simp [TableRow.decodes, decode, h, decodeSystem, Except.map, Instr.mnemonic]

theorem tableFp_decodes : ∀ r ∈ tableFp, ∀ w, r.covers w = true → r.decodes w := by
  intro r hr w h
  unfold tableFp at hr
  fin_cases hr <;> simp [covers_iff_fields, and_full3, and_full5, and_full7] at h <;>
    simp [TableRow.decodes, decode, h, decodeFused, fmtOf_of_and_r4, decodeOpFp, decodeSignInject, decodeMinMax,
      decodeFcvtToInt, decodeFcvtFromInt, decodeFcmp, decodeFclass, Except.map, Instr.mnemonic]

theorem opcodeTable_decodes {r : TableRow} (hr : r ∈ opcodeTable) {w : Word} (h : r.covers w = true) :
    ∃ i, decode w = .ok i ∧ i.mnemonic = r.mnemonic := by
  have hd : r.decodes w := by
    simp only [opcodeTable, List.mem_append] at hr
    obtain ((((hr | hr) | hr) | hr) | hr) | hr := hr
    · exact tableBase_decodes r hr w h
    · exact tableSystem_decodes r hr w h
    · exact tableM_decodes r hr w h
    · exact tableA_decodes r hr w h
    · exact tableCsr_decodes r hr w h
    · exact tableFp_decodes r hr w h
  unfold TableRow.decodes at hd
  cases hw : decode w with
  | error e => rw [hw] at hd; cases hd
  | ok i => exact ⟨i, rfl, by rw [hw] at hd; exact Except.ok.inj hd⟩

/-! ### An instruction's word is covered by its row -/

open Laws.TableRow in
theorem covered_encode (i : Instr) : ∃ r ∈ opcodeTable, r.mnemonic = i.mnemonic ∧ r.covers (encode i) = true := by
  cases i
  exacts [lui .., auipc .., jal .., jalr .., beq .., bne .., blt .., bge .., bltu .., bgeu .., lb .., lh .., lw ..,
    lbu .., lhu .., sb .., sh .., sw .., addi .., slti .., sltiu .., xori .., ori .., andi .., slli .., srli ..,
    srai .., add .., sub .., sll .., slt .., sltu .., xor .., srl .., sra .., or .., and .., fence .., fenceI ..,
    ecall .., ebreak .., sret .., mret .., wfi .., sfenceVma .., mul .., mulh .., mulhsu .., mulhu .., div ..,
    divu .., rem .., remu .., lrW .., scW .., amoswapW .., amoaddW .., amoxorW .., amoandW .., amoorW ..,
    amominW .., amomaxW .., amominuW .., amomaxuW .., csrrw .., csrrs .., csrrc .., csrrwi .., csrrsi ..,
    csrrci .., faddS .., fsubS .., fmulS .., fdivS .., fsqrtS .., fsgnjS .., fsgnjnS .., fsgnjxS .., fminS ..,
    fmaxS .., fcvtWS .., fcvtWuS .., fcvtSW .., fcvtSWu .., feqS .., fltS .., fleS .., fclassS .., fmaddS ..,
    fmsubS .., fnmsubS .., fnmaddS ..]

theorem covered_of_decode {w : Word} {i : Instr} (h : decode w = .ok i) :
    ∃ r ∈ opcodeTable, r.mnemonic = i.mnemonic ∧ r.covers w = true := by
  have hi := covered_encode i
  rwa [encodeDecodeRoundTrip w i h] at hi

/-- The names of the rows tell them apart. -/
theorem opcodeTable_mnemonics_nodup : (opcodeTable.map TableRow.mnemonic).Nodup := by decide +kernel

/-- Settles O4: a row's words decode to its instruction, and a word that decodes is covered by the one row that bears the
instruction's name. -/
theorem decodeFollowsOpcodeTable : Obligations.DecodeFollowsOpcodeTable := by
  refine ⟨fun r hr w => ⟨opcodeTable_decodes hr, ?_⟩, fun w => ⟨?_, ?_⟩⟩
  · rintro ⟨i, hi, hm⟩
    obtain ⟨r', hr', hm', hc⟩ := covered_of_decode hi
    rwa [← List.inj_on_of_nodup_map opcodeTable_mnemonics_nodup hr' hr (hm'.trans hm)]
  · rintro ⟨e, he⟩ r hr
    refine Bool.eq_false_iff.2 fun hc => ?_
    obtain ⟨i, hi, _⟩ := opcodeTable_decodes hr hc
    rw [he] at hi
    cases hi
  · intro h
    cases hw : decode w with
    | error e => exact ⟨e, rfl⟩
    | ok i =>
      obtain ⟨r, hr, _, hc⟩ := covered_of_decode hw
      rw [h r hr] at hc
      cases hc

/-- Settles O1: the decoder evaluates each of the words. -/
theorem sampleWordsDecode : Obligations.SampleWordsDecode := by
  unfold Obligations.SampleWordsDecode
  decide

end Sys2Proof
end

section
/-! PROOFS. The invariant of spec/10_state.md section 4: the hard-wired bits of the CSRs, an aligned pc and the memories'
canonical form are kept by every step (R22, R34, R35, R37, R39-R41). -/

namespace Sys2Proof.Machine

/-! ## Bits outside a mask -/

/-- The bits outside a mask are 0, bit by bit. -/
theorem and_not_eq_zero_iff (w mask : Word) :
    w &&& ~~~mask = 0#32 ↔ ∀ k, k < 32 → mask.getLsbD k = false → w.getLsbD k = false := by
  constructor
  · intro h k hk hm
    have hbit := congrArg (BitVec.getLsbD · k) h
    simpa only [BitVec.getLsbD_and, BitVec.getLsbD_not, hk, hm, decide_true, Bool.true_and, Bool.not_false,
      Bool.and_true, BitVec.getLsbD_zero] using hbit
  · intro h
    apply BitVec.eq_of_getLsbD_eq
    intro k hk
    rw [BitVec.getLsbD_and, BitVec.getLsbD_not, BitVec.getLsbD_zero]
    cases hm : mask.getLsbD k with
    | true => simp
    | false => rw [h k hk hm, Bool.false_and]

section Masks
variable {w v mask : Word}

theorem and_mask_and_not (v mask : Word) : v &&& mask &&& ~~~mask = 0#32 := by
  rw [BitVec.and_assoc, BitVec.and_not_self]
  exact BitVec.and_zero

theorem setBit_and_not (n : Nat) (b : Bool) (h : w &&& ~~~mask = 0#32) (hn : n < 32) (hm : mask.getLsbD n = true) :
    setBit w n b &&& ~~~mask = 0#32 := by
  rw [and_not_eq_zero_iff] at h ⊢
  intro k hk hk'
  rw [getLsbD_setBit _ _ _ _ hn, if_neg (by rintro rfl; rw [hm] at hk'; cases hk'), h k hk hk']

theorem setMpp_and_not (p : BitVec 2) (h : w &&& ~~~mask = 0#32) (h1 : mask.getLsbD 11 = true)
    (h2 : mask.getLsbD 12 = true) : setMpp w p &&& ~~~mask = 0#32 := by
  rw [and_not_eq_zero_iff] at h ⊢
  intro k hk hk'
  rw [getLsbD_setMpp, if_neg (by rintro rfl; rw [h1] at hk'; cases hk'),
    if_neg (by rintro rfl; rw [h2] at hk'; cases hk'), h k hk hk']

theorem getLsbD_mergeMasked (old v mask : Word) {k : Nat} (hk : k < 32) :
    (mergeMasked old v mask).getLsbD k = if mask.getLsbD k then v.getLsbD k else old.getLsbD k := by
  unfold mergeMasked
  simp only [BitVec.getLsbD_or, BitVec.getLsbD_and, BitVec.getLsbD_not, hk, decide_true, Bool.true_and]
  cases mask.getLsbD k <;> simp

/-- A write through a mask that lies within the register's own keeps the bits outside it 0. -/
theorem mergeMasked_and_not {part : Word} (v : Word) (h : w &&& ~~~mask = 0#32) (hp : part &&& ~~~mask = 0#32) :
    mergeMasked w v part &&& ~~~mask = 0#32 := by
  rw [and_not_eq_zero_iff] at h hp ⊢
  intro k hk hk'
  rw [getLsbD_mergeMasked _ _ _ hk, if_neg (by simp [hp k hk hk']), h k hk hk']

end Masks

/-! ## MPP -/

theorem mppOf_eq_two_iff (w : Word) : mppOf w = 2#2 ↔ w.getLsbD 11 = false ∧ w.getLsbD 12 = true := by
  constructor
  · intro h
    have h0 := congrArg (BitVec.getLsbD · 0) h
    have h1 := congrArg (BitVec.getLsbD · 1) h
    simpa [mppOf] using And.intro h0 h1
  · rintro ⟨h0, h1⟩
    apply BitVec.eq_of_getLsbD_eq
    intro i hi
    obtain rfl | rfl : i = 0 ∨ i = 1 := by omega
    · simpa [mppOf] using h0
    · simpa [mppOf] using h1

theorem mppOf_setMpp (w : Word) (p : BitVec 2) : mppOf (setMpp w p) = p := by
  apply BitVec.eq_of_getLsbD_eq
  intro i hi
  rw [mppOf, BitVec.getLsbD_extractLsb', getLsbD_setMpp]
  obtain rfl | rfl : i = 0 ∨ i = 1 := by omega
  all_goals simp

theorem mppOf_setBit (w : Word) {n : Nat} (b : Bool) (hn : n < 32) (h1 : n ≠ 11) (h2 : n ≠ 12) :
    mppOf (setBit w n b) = mppOf w := by
  apply BitVec.eq_of_getLsbD_eq
  intro i hi
  rw [mppOf, mppOf, BitVec.getLsbD_extractLsb', BitVec.getLsbD_extractLsb', getLsbD_setBit _ _ _ _ hn,
    if_neg (by omega)]

theorem Priv.toBits_ne_two (p : Priv) : p.toBits ≠ 2#2 := by cases p <;> decide

/-! ## `mstatus` (R35) -/

/-- What R34 and R35 say of a stored `mstatus`. -/
def mstatusLegal (w : Word) : Prop := w &&& ~~~mstatusMask = 0#32 ∧ mppOf w ≠ 2#2

section Mstatus
variable {w : Word} (h : mstatusLegal w)
include h

/-- Writing any bit of the mask but MPP's two. -/
theorem mstatusLegal_setBit {n : Nat} (b : Bool) (hn : n < 32) (hm : mstatusMask.getLsbD n = true) (h1 : n ≠ 11)
    (h2 : n ≠ 12) : mstatusLegal (setBit w n b) :=
  ⟨setBit_and_not n b h.1 hn hm, by rw [mppOf_setBit w b hn h1 h2]; exact h.2⟩

theorem mstatusLegal_setMpp {p : BitVec 2} (hp : p ≠ 2#2) : mstatusLegal (setMpp w p) :=
  ⟨setMpp_and_not p h.1 (by decide) (by decide), by rwa [mppOf_setMpp]⟩

theorem mstatusLegal_intoS (p : Priv) : mstatusLegal (mstatusIntoS w p) :=
  mstatusLegal_setBit (mstatusLegal_setBit (mstatusLegal_setBit h _ (by decide) (by decide) (by decide) (by decide)) _
    (by decide) (by decide) (by decide) (by decide)) _ (by decide) (by decide) (by decide) (by decide)

theorem mstatusLegal_intoM (p : Priv) : mstatusLegal (mstatusIntoM w p) :=
  mstatusLegal_setMpp (mstatusLegal_setBit (mstatusLegal_setBit h _ (by decide) (by decide) (by decide) (by decide)) _
    (by decide) (by decide) (by decide) (by decide)) p.toBits_ne_two

theorem mstatusLegal_afterSret : mstatusLegal (mstatusAfterSret w) :=
  mstatusLegal_setBit (mstatusLegal_setBit (mstatusLegal_setBit (mstatusLegal_setBit h _ (by decide) (by decide)
    (by decide) (by decide)) _ (by decide) (by decide) (by decide) (by decide)) _ (by decide) (by decide) (by decide)
    (by decide)) _ (by decide) (by decide) (by decide) (by decide)

theorem mstatusLegal_afterMret : mstatusLegal (mstatusAfterMret w) := by
  have hret := mstatusLegal_setMpp (mstatusLegal_setBit (mstatusLegal_setBit h (w.getLsbD mpieBit) (n := mieBit)
    (by decide) (by decide) (by decide) (by decide)) true (n := mpieBit) (by decide) (by decide) (by decide)
    (by decide)) (p := 0#2) (by decide)
  unfold mstatusAfterMret
  dsimp only
  split
  · exact hret
  · exact mstatusLegal_setBit hret _ (by decide) (by decide) (by decide) (by decide)

/-- A write that reserves MPP keeps the old one (R34). -/
theorem mstatusLegal_written (v : Word) : mstatusLegal (mstatusWritten w v) := by
  have hmerge := mergeMasked_and_not v h.1 (BitVec.and_not_self mstatusMask)
  unfold mstatusWritten
  dsimp only
  split
  · exact ⟨setMpp_and_not _ hmerge (by decide) (by decide), by rw [mppOf_setMpp]; exact h.2⟩
  · refine ⟨hmerge, fun hm => ?_⟩
    rw [mppOf_eq_two_iff, getLsbD_mergeMasked _ _ _ (by decide), getLsbD_mergeMasked _ _ _ (by decide)] at hm
    exact ‹¬mppOf v = 2#2› ((mppOf_eq_two_iff v).2 hm)

theorem mstatusLegal_sstatus (v : Word) : mstatusLegal (mergeMasked w v sstatusMask) := by
  refine ⟨mergeMasked_and_not v h.1 (by decide), fun hm => ?_⟩
  rw [mppOf_eq_two_iff, getLsbD_mergeMasked _ _ _ (by decide), getLsbD_mergeMasked _ _ _ (by decide)] at hm
  exact h.2 ((mppOf_eq_two_iff w).2 hm)

end Mstatus

/-! ## Aligned addresses (R22) -/

theorem alignedPc_iff (w : Word) : alignedPc w ↔ w.toNat % 4 = 0 := by
  unfold alignedPc
  constructor
  · intro h
    have := congrArg BitVec.toNat h
    simpa [BitVec.extractLsb'_toNat] using this
  · intro h
    apply BitVec.eq_of_toNat_eq
    simpa [BitVec.extractLsb'_toNat] using h

theorem alignedPc_add {a b : Word} (ha : alignedPc a) (hb : alignedPc b) : alignedPc (a + b) := by
  rw [alignedPc_iff] at *
  rw [BitVec.toNat_add]
  omega

theorem alignedPc_iff_epcMask (w : Word) : alignedPc w ↔ w &&& ~~~epcMask = 0#32 := by
  have hmask : ∀ k, k < 32 → epcMask.getLsbD k = false → k = 0 ∨ k = 1 := by decide
  rw [and_not_eq_zero_iff]
  constructor
  · intro h k hk hm
    have hbit := congrArg (BitVec.getLsbD · k) (show w.extractLsb' 0 2 = 0#2 from h)
    rcases hmask k hk hm with rfl | rfl <;> simpa using hbit
  · intro h
    apply BitVec.eq_of_getLsbD_eq
    intro k hk
    rw [BitVec.getLsbD_extractLsb', BitVec.getLsbD_zero, h (0 + k) (by omega) ?_, Bool.and_false]
    obtain rfl | rfl : k = 0 ∨ k = 1 := by omega
    all_goals decide

/-- Every vector is a multiple of 4 (R523). -/
theorem alignedPc_trapVector (tvec : Word) (t : Trap) : alignedPc (trapVector tvec t) := by
  refine alignedPc_add ((alignedPc_iff_epcMask _).2 (and_mask_and_not tvec epcMask)) ?_
  split
  · rw [alignedPc_iff, BitVec.toNat_ofNat]
    omega
  · rfl

/-! ## A legal pc and legal CSRs -/

/-- The part of `State.Legal` that is not about the memories. -/
structure State.CoreLegal (s : State) : Prop where
  pc : alignedPc s.pc
  csr : s.csr.Legal

theorem State.CoreLegal.congr {s t : State} (h : s.CoreLegal) (hpc : t.pc = s.pc) (hcsr : t.csr = s.csr) :
    t.CoreLegal :=
  ⟨hpc ▸ h.pc, hcsr ▸ h.csr⟩

namespace State.CoreLegal
variable {s : State} (h : s.CoreLegal)
include h

theorem advancePc : s.advancePc.CoreLegal := ⟨alignedPc_add h.pc rfl, h.csr⟩

theorem writeRd (rd : Reg) (v : Word) : (s.writeRd rd v).CoreLegal := (h.congr (by simp) (by simp)).advancePc

theorem trapEntry (t : Trap) (v : Word) : (Machine.trapEntry t v s).CoreLegal := by
  obtain ⟨hpc, hcsr⟩ := h
  have hepc := (alignedPc_iff_epcMask _).1 hpc
  cases ht : trapToS t s with
  | true =>
    rw [trapEntry_delegated _ _ ht]
    obtain ⟨hmask, hmpp⟩ := mstatusLegal_intoS ⟨hcsr.mstatus, hcsr.mpp⟩ s.priv
    exact ⟨alignedPc_trapVector .., { hcsr with sepc := hepc, mstatus := hmask, mpp := hmpp }⟩
  | false =>
    rw [trapEntry_notDelegated _ _ ht]
    obtain ⟨hmask, hmpp⟩ := mstatusLegal_intoM ⟨hcsr.mstatus, hcsr.mpp⟩ s.priv
    exact ⟨alignedPc_trapVector .., { hcsr with mepc := hepc, mstatus := hmask, mpp := hmpp }⟩

theorem raise (e : Exc) (v : Word) : (Machine.raise e v s).CoreLegal := h.trapEntry ..

theorem undecodable : (raiseUndecodable s).CoreLegal :=
  State.CoreLegal.raise (s := { s with flags.illegalException := true }) (h.congr rfl rfl) ..

theorem transferTo (target : Word) {linked : State} (hl : linked.csr = s.csr) :
    (Machine.transferTo target linked s).CoreLegal := by
  cases ht : targetMisaligned target with
  | true => rw [transferTo_misaligned _ _ ht]; exact h.raise ..
  | false =>
    rw [transferTo_aligned _ _ ht]
    exact ⟨by simpa [alignedPc, targetMisaligned] using ht, hl ▸ h.csr⟩

theorem branch (cond : Bool) (target : Word) : (Machine.branch cond target s).CoreLegal := by
  have hflags (b : Bool) : (s.setBranchFlags b).CoreLegal := h.congr rfl rfl
  unfold Machine.branch
  split
  · exact (hflags true).transferTo _ rfl
  · exact (hflags false).advancePc

theorem withRounding (rm : BitVec 3) (rd : Reg) (f : Rounding → Word) :
    (Machine.withRounding rm rd f s).CoreLegal := by
  unfold Machine.withRounding
  split
  · exact h.undecodable
  · exact h.writeRd ..

theorem csrRead (c : Csr) : (Machine.csrRead c s).2.CoreLegal := by cases c <;> exact h.congr rfl rfl

/-- A write stores under the register's mask (R34), so it keeps the bits outside it. -/
theorem csrWrite (c : Csr) (v : Word) : (Machine.csrWrite c v s).CoreLegal := by
  obtain ⟨hpc, hcsr⟩ := h
  refine ⟨by cases c <;> exact hpc, ?_⟩
  have hmstatus : mstatusLegal s.csr.mstatus := ⟨hcsr.mstatus, hcsr.mpp⟩
  cases c
  case mtvec => exact { hcsr with mtvec := and_mask_and_not .. }
  case stvec => exact { hcsr with stvec := and_mask_and_not .. }
  case mepc => exact { hcsr with mepc := and_mask_and_not .. }
  case sepc => exact { hcsr with sepc := and_mask_and_not .. }
  case mie => exact { hcsr with mie := and_mask_and_not .. }
  case sie => exact { hcsr with mie := mergeMasked_and_not v hcsr.mie (by decide) }
  case mip => exact { hcsr with mip := mergeMasked_and_not v hcsr.mip (by decide) }
  case sip => exact { hcsr with mip := mergeMasked_and_not v hcsr.mip (by decide) }
  case medeleg => exact { hcsr with medeleg := and_mask_and_not .. }
  case mideleg => exact { hcsr with mideleg := and_mask_and_not .. }
  case mstatus =>
    obtain ⟨hmask, hmpp⟩ := mstatusLegal_written hmstatus v
    exact { hcsr with mstatus := hmask, mpp := hmpp }
  case sstatus =>
    obtain ⟨hmask, hmpp⟩ := mstatusLegal_sstatus hmstatus v
    exact { hcsr with mstatus := hmask, mpp := hmpp }
  all_goals exact { hcsr with }

theorem csrOp (n : BitVec 12) (rd : Reg) (w : Bool) (new : Word → Word) : (Machine.csrOp n rd w new s).CoreLegal := by
  cases hc : csrAccess n w s.priv with
  | none => rw [csrOp_illegal _ hc]; exact h.raise ..
  | some c =>
    rw [csrOp_legal _ hc]
    refine State.CoreLegal.congr (State.CoreLegal.writeRd ?_ rd _) rfl rfl
    split
    · exact (h.csrRead c).csrWrite ..
    · exact h.csrRead c

theorem returnFromM : (Machine.returnFromM s).CoreLegal := by
  obtain ⟨hmask, hmpp⟩ := mstatusLegal_afterMret ⟨h.csr.mstatus, h.csr.mpp⟩
  exact ⟨(alignedPc_iff_epcMask _).2 h.csr.mepc, { h.csr with mstatus := hmask, mpp := hmpp }⟩

theorem returnFromS : (Machine.returnFromS s).CoreLegal := by
  obtain ⟨hmask, hmpp⟩ := mstatusLegal_afterSret ⟨h.csr.mstatus, h.csr.mpp⟩
  exact ⟨(alignedPc_iff_epcMask _).2 h.csr.sepc, { h.csr with mstatus := hmask, mpp := hmpp }⟩

theorem loadBody (va : Word) (rd : Reg) (v : Word) : (Machine.loadBody va rd v s).CoreLegal := by
  cases hf : loadFault s with
  | some e => rw [loadBody_fault s hf]; exact h.raise ..
  | none => rw [loadBody_ok s hf]; exact h.writeRd ..

theorem storeBody (va : Word) (n : Nat) (v : Word) : (Machine.storeBody va n v s).CoreLegal := by
  cases hf : storeFault s with
  | some e => rw [storeBody_fault s hf]; exact h.raise ..
  | none =>
    rw [storeBody_ok s hf]
    exact State.CoreLegal.advancePc (h.congr rfl rfl)

theorem lrBody (rd rs1 : Reg) : (Machine.lrBody rd rs1 s).CoreLegal := by
  cases hf : loadFault s with
  | some e => rw [lrBody_fault s hf]; exact h.raise ..
  | none => rw [lrBody_ok s hf]; exact State.CoreLegal.writeRd (by exact h.congr rfl rfl) ..

theorem scBody (rd rs1 rs2 : Reg) : (Machine.scBody rd rs1 rs2 s).CoreLegal := by
  cases hf : storeFault s with
  | some e => rw [scBody_fault s hf]; exact h.raise ..
  | none =>
    cases ok : scSucceeds s with
    | true => rw [scBody_success s hf ok]; exact State.CoreLegal.writeRd (by exact h.congr rfl rfl) ..
    | false => rw [scBody_failure s hf ok]; exact State.CoreLegal.writeRd (by exact h.congr rfl rfl) ..

theorem amoBody (f : Word → Word → Word) (rd rs1 rs2 : Reg) : (Machine.amoBody f rd rs1 rs2 s).CoreLegal := by
  cases hf : storeFault s with
  | some e => rw [amoBody_fault s hf]; exact h.raise ..
  | none => rw [amoBody_ok s hf]; exact State.CoreLegal.writeRd (by exact h.congr rfl rfl) ..

end State.CoreLegal

/-- An instruction without a data access leaves a legal pc and legal CSRs. -/
theorem exec_coreLegal {i : Instr} {s t : State} (h : s.CoreLegal) (hm : preDecode i s = none)
    (he : exec i s = .next t) : t.CoreLegal := by
  cases i <;> simp only [preDecode, reduceCtorEq] at hm <;> obtain rfl := Host.Outcome.next.inj he
  case jal | jalr => exact h.transferTo _ (by simp)
  case beq | bne | blt | bge | bltu | bgeu => exact h.branch ..
  case fence | fenceI | wfi => exact h.advancePc
  case ecall => exact h.raise ..
  case ebreak => exact State.CoreLegal.advancePc (s := { s with flags.simEnd := true }) (h.congr rfl rfl)
  case sret => split; exacts [h.raise .., h.returnFromS]
  case mret => split; exacts [h.returnFromM, h.raise ..]
  case sfenceVma => split; exacts [h.raise .., State.CoreLegal.advancePc (h.congr rfl rfl)]
  case csrrw | csrrs | csrrc | csrrwi | csrrsi | csrrci => exact h.csrOp ..
  case faddS | fsubS | fmulS | fdivS | fsqrtS | fcvtWS | fcvtWuS | fcvtSW | fcvtSWu | fmaddS | fmsubS | fnmsubS | fnmaddS =>
    exact h.withRounding ..
  all_goals exact h.writeRd ..

/-- Execute leaves a legal pc and legal CSRs, at the cycle level too (R421). -/
theorem executeBody_coreLegal {i : Instr} {s t : State} (h : s.CoreLegal) (he : executeBody i s = .next t) :
    t.CoreLegal := by
  cases hm : preDecode i s with
  | none => exact exec_coreLegal h hm (executeBody_noAccess hm ▸ he)
  | some m =>
    cases i <;> simp only [preDecode, reduceCtorEq] at hm <;> obtain rfl := Host.Outcome.next.inj he
    case lb | lh | lw | lbu | lhu => exact h.loadBody ..
    case sb | sh | sw => exact h.storeBody ..
    case lrW => exact h.lrBody ..
    case scW => exact h.scBody ..
    all_goals exact h.amoBody ..

/-! ## Canonical memories -/

/-- The part of `State.Legal` that is about the memories. -/
structure State.MemoriesWf (s : State) : Prop where
  mirror : s.mirror.wf = true
  slave : s.slave.mem.wf = true

theorem State.Legal.core {s : State} (h : s.Legal) : s.CoreLegal := ⟨h.pc, h.csr⟩

theorem State.Legal.memories {s : State} (h : s.Legal) : s.MemoriesWf := ⟨h.mirror, h.slave⟩

theorem State.CoreLegal.legal {s : State} (h : s.CoreLegal) (hm : s.MemoriesWf) : s.Legal :=
  ⟨h.pc, h.csr, hm.mirror, hm.slave⟩

theorem State.Legal.congr {s t : State} (h : s.Legal) (hpc : t.pc = s.pc) (hcsr : t.csr = s.csr)
    (hmirror : t.mirror = s.mirror) (hslave : t.slave = s.slave) : t.Legal :=
  ⟨hpc ▸ h.pc, hcsr ▸ h.csr, hmirror ▸ h.mirror, hslave ▸ h.slave⟩

namespace State.MemoriesWf
variable {s : State} (h : s.MemoriesWf)
include h

theorem congr {t : State} (hmirror : t.mirror = s.mirror) (hslave : t.slave = s.slave) : t.MemoriesWf :=
  ⟨hmirror ▸ h.mirror, hslave ▸ h.slave⟩

theorem busWrite (pa d : Word) (strb : BitVec 4) : (Machine.busWrite pa d strb s).2.MemoriesWf := by
  refine ⟨?_, ?_⟩
  · rw [busWrite_mirror]
    exact Memory.wf_writeLanes h.mirror
  · rw [busWrite_slave]
    split
    · exact h.slave
    · exact Memory.wf_writeLanes h.slave

theorem translate (va : Word) (ty : Access) : (Machine.translate s va ty).2.MemoriesWf :=
  ⟨translate_mirror_wf s va ty h.mirror, by rw [translate_slave]; exact h.slave⟩

theorem dataTransfer (m : MemReq) (pa : Word) : (Machine.dataTransfer m pa s).MemoriesWf := by
  by_cases hk : m.kind = .store
  · obtain ⟨hmirror, -, hslave⟩ := dataTransfer_write s hk pa
    refine ⟨hmirror ▸ Memory.wf_writeLanes h.mirror, ?_⟩
    rw [hslave]
    split
    · exact h.slave
    · exact Memory.wf_writeLanes h.slave
  · obtain ⟨hslave, -, hmirror⟩ := dataTransfer_read s hk pa
    exact ⟨hmirror ▸ Memory.wf_writeWord h.mirror, hslave ▸ h.slave⟩

theorem dataPhase (m : MemReq) : (Machine.dataPhase m s).MemoriesWf := by
  have hstart : (dataStart s).MemoriesWf := h.congr rfl rfl
  have hwalk := hstart.translate m.va m.type
  rcases dataPhase_cases s m with e | ⟨pa, e⟩ | e | e <;> rw [e]
  · exact hstart.congr (by simp) (by simp)
  · exact hwalk.dataTransfer m pa
  · exact hwalk.congr (by simp) (by simp)
  · exact hwalk.congr (by simp) (by simp)

end State.MemoriesWf

/-! ## A memory instruction: its access, its Execute part, an AMO's write -/

/-- The meaning of a memory instruction in its parts (R421, R425): a latch that LR.W leaves clear is not written. -/
theorem exec_access {i : Instr} {s : State} {m : MemReq} (hm : preDecode i s = some m) :
    ∃ u, executeBody i (dataPhase m s) = .next u ∧ exec i s = if m.kind = .amo then amoCommit u else .next u := by
  cases i <;> simp only [preDecode, Option.some.injEq, reduceCtorEq] at hm <;> subst hm
  case lrW rd rs1 aq rl =>
    refine ⟨_, rfl, Eq.symm (amoCommit_clear _ ?_)⟩
    cases hf : loadFault (dataPhase (lrReq rs1 s) s) with
    | some e => rw [lrBody_fault _ hf]; simp [raise]
    | none => rw [lrBody_ok _ hf]; simp
  all_goals exact ⟨_, rfl, rfl⟩

/-- An AMO's write that is answered without an error (R425): none, or a bus write. -/
theorem amoCommit_next {s t : State} (h : amoCommit s = .next t) :
    t = s ∨ t = (busWrite s.latch.addr s.latch.data s.latch.strb s).2 := by
  cases hl : s.latch.store with
  | false => rw [amoCommit_clear s hl] at h; cases h; exact .inl rfl
  | true =>
    cases hw : s.slave.writeErr.contains (wordAddress s.latch.addr) with
    | true => rw [amoCommit_error s hl hw] at h; cases h
    | false => rw [amoCommit_write s hl hw] at h; cases h; exact .inr rfl

theorem amoCommit_legal {s t : State} (h : s.Legal) (he : amoCommit s = .next t) : t.Legal := by
  rcases amoCommit_next he with rfl | rfl
  · exact h
  · exact State.CoreLegal.legal (h.core.congr (by simp) (by simp)) (h.memories.busWrite ..)

theorem exec_legal {i : Instr} {s t : State} (h : s.Legal) (he : exec i s = .next t) : t.Legal := by
  cases hm : preDecode i s with
  | none =>
    have hframe := exec_sameMachine hm he
    exact (exec_coreLegal h.core hm he).legal (h.memories.congr hframe.mirror hframe.slave)
  | some m =>
    obtain ⟨u, hu, hexec⟩ := exec_access hm
    have hframe := executeBody_frame hu
    have hcore : u.CoreLegal := executeBody_coreLegal (h.core.congr (by simp) (by simp)) hu
    have hlegal : u.Legal := hcore.legal ((h.memories.dataPhase m).congr (congrArg State.mirror hframe :)
      (congrArg State.slave hframe :))
    rw [hexec] at he
    split at he
    · exact amoCommit_legal hlegal he
    · cases he
      exact hlegal

/-! ## A pass (R430) -/

theorem fetchPhase_legal {s : State} (h : s.Legal) : (fetchPhase s).Legal := by
  have answer (p : Translation × State) (hp : p.2.mirror.wf = true) : (fetchAnswer p).mirror.wf = true := by
    obtain ⟨r, u⟩ := p
    cases r
    case ok pa =>
      simp only [fetchAnswer]
      split
      · unfold fetchWord
        split <;> rename_i v hv <;> obtain rfl : _ = v := congrArg Prod.snd hv <;> exact Memory.wf_writeWord hp
      · exact hp
    all_goals exact hp
  obtain ⟨-, hpc, -, hcsr, -, hslave, -⟩ := fetchPhase_sameArch s
  refine ⟨hpc ▸ h.pc, hcsr ▸ h.csr, ?_, hslave ▸ h.slave⟩
  rw [fetchPhase_eq]
  exact answer _ (translate_mirror_wf (fetchStart s) _ _ h.mirror)

theorem State.Legal.trapEntry {s : State} (h : s.Legal) (t : Trap) (v : Word) : (Machine.trapEntry t v s).Legal :=
  (h.core.trapEntry t v).legal (h.memories.congr (by simp) (by simp))

theorem accessOfWord_legal {s : State} (h : s.Legal) : (accessOfWord s).Legal := by
  unfold accessOfWord
  split
  · exact State.CoreLegal.legal (h.core.congr (by simp) (by simp)) (h.memories.dataPhase _)
  · exact h

theorem passExecute_legal {s t : State} (h : s.Legal) (he : passExecute s = .next t) : t.Legal := by
  have hbegin : s.beginExec.Legal := h.congr rfl rfl rfl rfl
  rcases passExecute_cases s with ⟨j, -, e⟩ | ⟨-, ⟨-, e⟩ | ⟨-, -, e⟩ | ⟨-, -, ⟨-, e⟩ | ⟨i, -, e⟩⟩⟩ <;> rw [e] at he
  · cases he; exact (accessOfWord_legal hbegin).trapEntry ..
  · cases he; exact hbegin.trapEntry ..
  · cases he; exact hbegin.trapEntry ..
  · cases he
    exact State.Legal.trapEntry (s := { s.beginExec with flags.illegalException := true })
      (hbegin.congr rfl rfl rfl rfl) ..
  · exact exec_legal hbegin he

theorem retire_legal {s : State} (h : s.Legal) : (retire s).Legal := by
  obtain ⟨⟨-, -, -, hcsr, -, hslave, -⟩, -, hpc, -, hmirror, -⟩ := retire_cases s
  refine ⟨hpc h.pc, ?_, hmirror ▸ h.mirror, ?_⟩
  · exact hcsr ▸ h.csr
  · exact hslave ▸ h.slave

theorem instructionPass_legal {s t : State} (h : s.Legal) (he : instructionPass s = .next t) : t.Legal := by
  unfold instructionPass at he
  split at he <;> cases he
  next u hu => exact retire_legal (passExecute_legal (fetchPhase_legal h) hu)

/-! ## A tick (R401) -/

section BusPhases
variable {s : State} (inp : AxiIn) (o : AxiOut)

/-- The parts of phases (b) and (c) write the mirror by words and strobed words only. -/
theorem captureR_mirror_wf (h : s.mirror.wf = true) : (captureR inp o s).mirror.wf = true := by
  unfold captureR
  repeat' split
  case isTrue => exact h
  case isFalse => exact h
  all_goals exact Memory.wf_writeWord h

theorem captureW_mirror_wf (h : s.mirror.wf = true) : (captureW inp o s).mirror.wf = true := by
  unfold captureW
  split
  · exact Memory.wf_writeLanes h
  · exact h

theorem captureB_mirror : (captureB inp o s).mirror = s.mirror := by
  unfold captureB
  split <;> rfl

theorem completeMmu_mirror : (completeMmu s).mirror = s.mirror := by
  unfold completeMmu
  split <;> rfl

theorem busPhases_slave : (busPhases inp s).slave = s.slave := (congrArg State.slave (busPhases_frame inp s) :)

theorem busPhases_legal (h : s.Legal) : (busPhases inp s).Legal := by
  refine ⟨?_, ?_, ?_, ?_⟩
  · rw [busPhases_pc]; exact h.pc
  · rw [busPhases_csr]; exact h.csr
  · unfold busPhases
    dsimp only
    rw [completeMmu_mirror, captureB_mirror]
    exact captureW_mirror_wf inp _ (captureR_mirror_wf inp _ h.mirror)
  · rw [busPhases_slave]; exact h.slave

end BusPhases

/-! ### The stages before and after Execute -/

/-- What a stage other than Execute may write is as in `t`: stage, flags, fetched word and address, request, PTW cache,
bus view. All else is as in `s`. -/
def State.sameButStage (s t : State) : Prop :=
  { t with
    stage := s.stage, flags := s.flags, instWord := s.instWord, fetchPaddr := s.fetchPaddr, memop := s.memop
    ptw := s.ptw, bus := s.bus } = s

namespace State.sameButStage
variable {s t u : State}

theorem trans (h : s.sameButStage t) (h' : t.sameButStage u) : s.sameButStage u :=
  Eq.trans (congrArg (fun v : State => { v with
    stage := s.stage, flags := s.flags, instWord := s.instWord, fetchPaddr := s.fetchPaddr, memop := s.memop
    ptw := s.ptw, bus := s.bus }) h' :) h

theorem legal (h : s.sameButStage t) (hs : s.Legal) : t.Legal :=
  hs.congr (congrArg State.pc h :) (congrArg State.csr h :) (congrArg State.mirror h :) (congrArg State.slave h :)

theorem setAccessFault (h : s.sameButStage t) (ty : Access) : s.sameButStage (t.setAccessFault ty) := by
  cases ty <;> exact h.trans rfl

theorem setPageFault (h : s.sameButStage t) (ty : Access) : s.sameButStage (t.setPageFault ty) := by
  cases ty <;> exact h.trans rfl

theorem goto (h : s.sameButStage t) (st : Stage) : s.sameButStage (t.goto st) := h.trans rfl

theorem fetchFailed (h : s.sameButStage t) : s.sameButStage (Machine.fetchFailed t) := h.trans rfl

end State.sameButStage

section Stages
variable (s : State)

theorem mmuHookRead_frame (pa : Word) : s.sameButStage (mmuHookRead s pa).2 := by
  unfold mmuHookRead
  dsimp only
  split
  · rfl
  · split <;> rfl

theorem pteReadHook_frame (pa : Word) : s.sameButStage (pteReadHook s pa).2 := by
  have hhook := mmuHookRead_frame s pa
  unfold pteReadHook
  split
  · rfl
  · split
    · rfl
    · split
      next h => rw [h] at hhook; exact hhook.trans rfl
      next => exact hhook

theorem translateCycle_frame (va : Word) (ty : Access) : s.sameButStage (translateCycle s va ty).2 := by
  unfold translateCycle translateWith
  split
  · exact walk_frame s pteReadHook State.sameButStage (fun _ _ _ => .trans) pteReadHook_frame va ty _
  · rfl

theorem stagePrepareFetch_frame : s.sameButStage (stagePrepareFetch s) := by
  have hbegin : s.sameButStage { beginFetch s with flags.translationPending := false } := by
    unfold beginFetch
    split <;> rfl
  have hwalk := hbegin.trans (translateCycle_frame _ (beginFetch s).pc .fetch)
  unfold stagePrepareFetch
  dsimp only
  split <;> rename_i heq <;> rw [heq] at hwalk
  · exact hwalk.trans rfl
  · exact (hwalk.setPageFault .fetch).fetchFailed
  · exact (hwalk.setAccessFault .fetch).fetchFailed
  · split
    · exact hwalk.trans rfl
    · exact (hwalk.setAccessFault .fetch).fetchFailed

theorem stageWaitFetch_frame : s.sameButStage (stageWaitFetch s) := by
  unfold stageWaitFetch
  split
  · dsimp only
    split <;> rfl
  · rfl

theorem armData_frame (m : MemReq) (pa : Word) : s.sameButStage (armData m pa s) := by
  unfold armData
  dsimp only
  split <;> rfl

theorem stagePrepareData_frame : s.sameButStage (stagePrepareData s) := by
  have hstart : s.sameButStage { s with flags.translationPending := false } := rfl
  unfold stagePrepareData
  dsimp only
  split
  · exact hstart.goto _
  next m _ =>
    have hwalk := hstart.trans (translateCycle_frame _ m.va m.type)
    split
    · exact (hstart.setAccessFault m.type).goto _
    · split <;> rename_i heq <;> rw [heq] at hwalk
      · exact hwalk.trans rfl
      · exact (hwalk.setPageFault m.type).goto _
      · exact (hwalk.setAccessFault m.type).goto _
      · split
        · exact hwalk.trans (armData_frame ..)
        · exact (hwalk.setAccessFault m.type).goto _

theorem stageWaitData_frame : s.sameButStage (stageWaitData s) := by
  have answered {t : State} (h : s.sameButStage t) (e : Bool) (ty : Access) :
      s.sameButStage ((flagError e ty t).goto .execute) := by
    unfold flagError
    split
    · exact (h.setAccessFault ty).goto _
    · exact h.goto _
  unfold stageWaitData
  repeat' split
  case isFalse => rfl
  case isFalse => rfl
  all_goals exact answered (by rfl) _ _

end Stages

theorem stageWaitAmoWrite_frame {s t : State} (h : stageWaitAmoWrite s = .next t) : s.sameButStage t := by
  unfold stageWaitAmoWrite at h
  split at h
  · split at h <;> cases h
    rfl
  · cases h; rfl

/-! ### Execute, limits, the end of a tick -/

theorem execStage_legal {s t : State} (h : s.Legal) (he : execStage s = .next t) : t.Legal := by
  have hbegin : s.beginExec.Legal := h.congr rfl rfl rfl rfl
  have hframe := execStage_frame he
  unfold execStage at he
  dsimp only at he
  split at he
  · cases he; exact hbegin.trapEntry ..
  · split at he
    · cases he; exact hbegin.trapEntry ..
    · split at he
      · cases he; exact hbegin.trapEntry ..
      · split at he
        · cases he
          exact State.Legal.trapEntry (s := { s.beginExec with flags.illegalException := true })
            (hbegin.congr rfl rfl rfl rfl) ..
        · exact (executeBody_coreLegal hbegin.core he).legal (h.memories.congr (congrArg State.mirror hframe :)
            (congrArg State.slave hframe :))

theorem afterExec_legal {s : State} (h : s.Legal) : (afterExec s).Legal := by
  have hcounted : ({ countInstruction s with latch.store := false } : State).Legal := h.congr rfl rfl rfl rfl
  unfold afterExec
  dsimp only
  split
  · exact ⟨haltEbreak_alignedPc _, hcounted.csr, hcounted.mirror, hcounted.slave⟩
  · split
    · exact h.congr rfl rfl rfl rfl
    · exact h.congr rfl rfl rfl rfl

theorem stageTransition_legal {s t : State} (h : s.Legal) (ht : stageTransition s = .next t) : t.Legal := by
  unfold stageTransition at ht
  cases hst : s.stage <;> simp only [hst] at ht
  case execute =>
    unfold stageExecute at ht
    split at ht <;> cases ht
    next u hu => exact afterExec_legal (execStage_legal h hu)
  case waitAmoWrite => exact (stageWaitAmoWrite_frame ht).legal h
  all_goals cases ht
  case prepareFetch => exact (stagePrepareFetch_frame s).legal h
  case waitFetch => exact (stageWaitFetch_frame s).legal h
  case prepareData => exact (stagePrepareData_frame s).legal h
  case waitData => exact (stageWaitData_frame s).legal h
  case halted => exact h

theorem limitHalt_legal {s t : State} (h : s.Legal) (ht : limitHalt s = some t) : t.Legal := by
  unfold limitHalt at ht
  split at ht
  · cases ht; exact h.congr rfl rfl rfl rfl
  · split at ht <;> cases ht
    exact h.congr rfl rfl rfl rfl

theorem endTick_legal {s : State} (h : s.Legal) (uart : Option Byte) : (endTick uart s).Legal :=
  h.congr (by simp) (by simp) (congrArg State.mirror (endTick_frame uart s) :)
    (congrArg State.slave (endTick_frame uart s) :)

theorem haltedTick_legal {s : State} (h : s.Legal) : (haltedTick s).Legal := h.congr rfl rfl rfl rfl

theorem tick_legal {s t : State} (inp : AxiIn) (h : s.Legal) (ht : tick inp s = .next t) : t.Legal := by
  by_cases hs : s.stage = .halted
  · rw [tick_halted inp hs] at ht
    cases ht
    exact haltedTick_legal h
  · obtain ⟨u, hu, rfl⟩ := (tick_eq_next_iff inp hs t).1 ht
    refine endTick_legal ?_ _
    have hbus := busPhases_legal inp h
    unfold advanceStage at hu
    split at hu
    · cases hu; exact limitHalt_legal hbus ‹_›
    · exact stageTransition_legal hbus hu

/-- The slave takes its W beat under the strobes. -/
theorem slaveAcceptW_legal {s : State} (h : s.Legal) : (slaveAcceptW s).Legal := by
  unfold slaveAcceptW
  dsimp only
  split
  · exact ⟨h.pc, h.csr, h.mirror, Memory.wf_writeLanes h.slave⟩
  · exact h

/-- Settles O56: a step is a halted tick, a limit's halt, a pass or a tick against the ideal slave, and each keeps the pc,
the CSRs and the memories legal. -/
theorem legalKeptByStep : Obligations.LegalKeptByStep := by
  intro s t h ht
  unfold step machineStep at ht
  split at ht
  · cases ht; exact haltedTick_legal h
  · split at ht
    · unfold limitedPass at ht
      split at ht
      · cases ht; exact endTick_legal (limitHalt_legal h ‹_›) _
      · exact instructionPass_legal h ht
    · unfold idealTick at ht
      split at ht
      · contradiction
      · exact tick_legal _ (slaveAcceptW_legal h) ht

end Sys2Proof.Machine
end

section
/-! PROOFS. The invariant of the request slots (spec/51_axi_master.md section 3, R67, R457): at most one is active, in the
stage that waits for it, through every tick with any input. -/

namespace Sys2Proof.Machine

/-! ## The walk at the cycle level (R118, R440) -/

/-- A PTE read is under way: asked for and not answered. -/
def State.hookBusy (s : State) : Prop := s.bus.mmuHook.pending = true ∧ s.bus.mmuHook.responseValid = false

/-- All that a walk may write, the PTW cache, the MMU's mailbox and its request slot, is as in `t`; all else as in `s`. -/
def State.sameButHook (s t : State) : Prop :=
  { t with ptw := s.ptw, bus := { t.bus with mmuHook := s.bus.mmuHook, mmuReq := s.bus.mmuReq } } = s

theorem State.sameButHook.trans {s t u : State} (h : s.sameButHook t) (h' : t.sameButHook u) : s.sameButHook u :=
  Eq.trans (congrArg (fun v : State =>
    { v with ptw := s.ptw, bus := { v.bus with mmuHook := s.bus.mmuHook, mmuReq := s.bus.mmuReq } }) h' :) h

/-- Two states in which a walk finds the same PTEs cached. -/
def State.sameForHook (s t : State) : Prop := t.csr = s.csr ∧ t.priv = s.priv ∧ t.ptw = s.ptw ∧ t.cfg = s.cfg

/-- What a PTE read answers while another is under way: from bounds and PTW cache, else nothing yet. -/
def cachedPte (s : State) (pa : Word) : PteRead :=
  if !s.inBounds pa then .fault
  else
    match s.ptwLookup pa with
    | some d => .ok d
    | none => .pending

section Hook
variable {s t : State}

theorem cachedPte_congr (h : s.sameForHook t) (pa : Word) : cachedPte t pa = cachedPte s pa := by
  obtain ⟨-, -, hptw, hcfg⟩ := h
  simp [cachedPte, State.inBounds, State.ptwLookup, hptw, hcfg]

theorem pteReadHook_busy (h : s.hookBusy) (pa : Word) : pteReadHook s pa = (cachedPte s pa, s) := by
  obtain ⟨hp, hr⟩ := h
  have hread : mmuHookRead s pa = (.pending, s) := by simp [mmuHookRead, hp, hr]
  unfold pteReadHook cachedPte
  rw [hread]
  cases s.inBounds pa with
  | false => rfl
  | true => cases s.ptwLookup pa <;> rfl

theorem mmuHookRead_hookFrame (s : State) (pa : Word) : s.sameButHook (mmuHookRead s pa).2 := by
  unfold mmuHookRead
  dsimp only
  split
  · rfl
  · split <;> rfl

theorem pteReadHook_hookFrame (s : State) (pa : Word) : s.sameButHook (pteReadHook s pa).2 := by
  have hhook := mmuHookRead_hookFrame s pa
  unfold pteReadHook
  split
  · rfl
  · split
    · rfl
    · split
      next h => rw [h] at hhook; exact hhook.trans rfl
      next => exact hhook

theorem translateCycle_hookFrame (s : State) (va : Word) (ty : Access) :
    s.sameButHook (translateCycle s va ty).2 := by
  unfold translateCycle translateWith
  split
  · exact walk_frame s pteReadHook State.sameButHook (fun _ _ _ => .trans) pteReadHook_hookFrame va ty _
  · rfl

/-- What an answered PTE read leaves: the PTE is cached, and no request was made. -/
theorem pteReadHook_ok {pa d : Word} (h : pteReadHook s pa = (.ok d, t)) :
    cachedPte t pa = .ok d ∧ t.bus.mmuReq = s.bus.mmuReq := by
  unfold pteReadHook at h
  split at h
  · cases h
  · rename_i hb
    split at h
    next hl => cases h; simp [cachedPte, hl, hb]
    next hl =>
      split at h
      next s1 hr =>
        cases h
        have hframe := mmuHookRead_hookFrame s pa
        rw [hr] at hframe
        have hcfg : s1.cfg = s.cfg := (congrArg State.cfg hframe :)
        refine ⟨?_, ?_⟩
        · have hb' : (s1.ptwFill pa d).inBounds pa = true := by simpa [State.inBounds, hcfg] using hb
          simp [cachedPte, hb', ptwLookup_ptwFill]
        · unfold mmuHookRead at hr
          dsimp only at hr
          split at hr
          · simp only [Prod.mk.injEq] at hr
            obtain ⟨-, rfl⟩ := hr
            rfl
          · split at hr <;> simp at hr
      next r hne => exact absurd h (fun h => hne _ _ h)

/-- A PTE read that is an access fault made no request. -/
theorem pteReadHook_fault {pa : Word} (h : pteReadHook s pa = (.fault, t)) : t.bus.mmuReq = s.bus.mmuReq := by
  unfold pteReadHook at h
  split at h
  · cases h; rfl
  · split at h
    · cases h
    · split at h
      · cases h
      · unfold mmuHookRead at h
        dsimp only at h
        split at h
        · simp only [Prod.mk.injEq] at h
          obtain ⟨-, rfl⟩ := h
          rfl
        · split at h <;> simp at h

/-- A PTE read that is not answered yet left the cache alone, and either changed nothing or made its request. -/
theorem pteReadHook_pending {pa : Word} (h : pteReadHook s pa = (.pending, t)) :
    cachedPte s pa = .pending ∧ s.sameForHook t ∧ (t = s ∨ t.hookBusy) := by
  unfold pteReadHook at h
  split at h
  · cases h
  · rename_i hb
    split at h
    next hl => cases h
    next hl =>
      have hcached : cachedPte s pa = .pending := by simp [cachedPte, hl, hb]
      split at h
      · cases h
      · unfold mmuHookRead at h
        dsimp only at h
        split at h
        · split at h <;> simp at h
        · split at h <;> cases h
          · exact ⟨hcached, ⟨rfl, rfl, rfl, rfl⟩, .inl rfl⟩
          · exact ⟨hcached, ⟨rfl, rfl, rfl, rfl⟩, .inr ⟨rfl, rfl⟩⟩

end Hook

/-! ### The whole walk -/

section Walk
variable {s t : State}

theorem translationOn_congr (hcsr : t.csr = s.csr) (hpriv : t.priv = s.priv) (ty : Access) :
    translationOn t ty = translationOn s ty ∧ effPriv t ty = effPriv s ty := by
  have heff : effPriv t ty = effPriv s ty := by cases ty <;> simp [effPriv, hcsr, hpriv]
  exact ⟨by rw [translationOn, translationOn, heff, hcsr], heff⟩

theorem walkLevel0_busy (h : s.hookBusy) (base va : Word) (ty : Access) (eff : Priv) :
    (walkLevel0 pteReadHook s base va ty eff).2 = s := by
  unfold walkLevel0
  rw [pteReadHook_busy h]
  cases cachedPte s (pteAddress base (va.extractLsb' 12 10)) with
  | ok pte => dsimp only; cases pteClass pte <;> rfl
  | pending => rfl
  | fault => rfl

/-- While a PTE read is under way a walk changes nothing. -/
theorem translateCycle_busy (h : s.hookBusy) (va : Word) (ty : Access) : (translateCycle s va ty).2 = s := by
  unfold translateCycle translateWith
  split
  · unfold walk
    rw [pteReadHook_busy h]
    cases cachedPte s (pteAddress (pageAddress (satpPpn s.csr.satp)) (va.extractLsb' 22 10)) with
    | ok pte =>
      dsimp only
      cases pteClass pte with
      | pointer => exact walkLevel0_busy h ..
      | _ => rfl
    | pending => rfl
    | fault => rfl
  · rfl

theorem leafResult_csr (h : t.csr = s.csr) (pte va : Word) (ty : Access) (eff : Priv) (l : Bool) :
    leafResult t pte va ty eff l = leafResult s pte va ty eff l := by
  simp [leafResult, permitted, h]

/-- While a PTE read is under way the answer of a walk depends on CSRs, mode, bounds and PTW cache only. -/
theorem translateCycle_busy_congr (hs : s.hookBusy) (ht : t.hookBusy) (h : s.sameForHook t) (va : Word) (ty : Access) :
    (translateCycle t va ty).1 = (translateCycle s va ty).1 := by
  have level0 (base : Word) (eff : Priv) :
      (walkLevel0 pteReadHook t base va ty eff).1 = (walkLevel0 pteReadHook s base va ty eff).1 := by
    unfold walkLevel0
    rw [pteReadHook_busy hs, pteReadHook_busy ht, cachedPte_congr h]
    cases cachedPte s (pteAddress base (va.extractLsb' 12 10)) with
    | ok pte =>
      dsimp only
      cases pteClass pte with
      | leaf => exact leafResult_csr h.1 ..
      | _ => rfl
    | pending => rfl
    | fault => rfl
  obtain ⟨hon, heff⟩ := translationOn_congr h.1 h.2.1 ty
  unfold translateCycle translateWith
  rw [hon, heff]
  split
  · unfold walk
    rw [h.1, pteReadHook_busy hs, pteReadHook_busy ht, cachedPte_congr h]
    cases cachedPte s (pteAddress (pageAddress (satpPpn s.csr.satp)) (va.extractLsb' 22 10)) with
    | ok pte =>
      dsimp only
      cases pteClass pte with
      | invalid => rfl
      | leaf => exact leafResult_csr h.1 ..
      | pointer => exact level0 ..
    | pending => rfl
    | fault => rfl
  · rfl

theorem walkLevel0_request (base va : Word) (ty : Access) (eff : Priv)
    (h : (walkLevel0 pteReadHook s base va ty eff).1 ≠ .pending) :
    (walkLevel0 pteReadHook s base va ty eff).2.bus.mmuReq = s.bus.mmuReq := by
  unfold walkLevel0 at h ⊢
  rcases hr : pteReadHook s (pteAddress base (va.extractLsb' 12 10)) with ⟨r, u⟩
  rw [hr] at h
  cases r with
  | ok pte =>
    have hu := (pteReadHook_ok hr).2
    dsimp only
    cases pteClass pte <;> exact hu
  | pending => exact absurd rfl h
  | fault => exact pteReadHook_fault hr

/-- A walk that comes to an end made no request. -/
theorem translateCycle_request {va : Word} {ty : Access} (h : (translateCycle s va ty).1 ≠ .pending) :
    (translateCycle s va ty).2.bus.mmuReq = s.bus.mmuReq := by
  unfold translateCycle translateWith at h ⊢
  split at h
  next hon =>
    rw [if_pos hon]
    unfold walk at h ⊢
    rcases hr : pteReadHook s (pteAddress (pageAddress (satpPpn s.csr.satp)) (va.extractLsb' 22 10)) with ⟨r, u⟩
    rw [hr] at h
    cases r with
    | ok pte =>
      have hu := (pteReadHook_ok hr).2
      dsimp only at h ⊢
      cases hc : pteClass pte with
      | pointer => rw [hc] at h; exact (walkLevel0_request _ _ _ _ h).trans hu
      | _ => exact hu
    | pending => exact absurd rfl h
    | fault => exact pteReadHook_fault hr
  next hoff => rw [if_neg hoff]

theorem walkLevel0_armed {base va : Word} {ty : Access} {eff : Priv}
    (h : walkLevel0 pteReadHook s base va ty eff = (.pending, t)) :
    cachedPte s (pteAddress base (va.extractLsb' 12 10)) = .pending ∧ s.sameForHook t ∧ (t = s ∨ t.hookBusy) := by
  unfold walkLevel0 at h
  rcases hr : pteReadHook s (pteAddress base (va.extractLsb' 12 10)) with ⟨r, u⟩
  rw [hr] at h
  cases r with
  | ok pte =>
    dsimp only at h
    cases hc : pteClass pte with
    | leaf => rw [hc] at h; exact absurd (congrArg Prod.fst h) (leafResult_ne_pending u _ _ _ _ _)
    | _ => rw [hc] at h; cases h
  | pending => cases h; exact pteReadHook_pending hr
  | fault => cases h

theorem walkLevel0_pending_of_cached {base va : Word} (hs : s.hookBusy) (ty : Access) (eff : Priv)
    (h : cachedPte s (pteAddress base (va.extractLsb' 12 10)) = .pending) :
    (walkLevel0 pteReadHook s base va ty eff).1 = .pending := by
  unfold walkLevel0
  rw [pteReadHook_busy hs, h]

/-- A walk that made a request waits for it: tried again it finds the cached PTEs again, and nothing new. -/
theorem translateCycle_armed {va : Word} {ty : Access} (h : translateCycle s va ty = (.pending, t))
    (hs : ¬s.bus.mmuReq.active) (ht : t.bus.mmuReq.active) :
    t.hookBusy ∧ (translateCycle t va ty).1 = .pending := by
  have hframe := translateCycle_hookFrame s va ty
  rw [h] at hframe
  have hcsr : t.csr = s.csr := (congrArg State.csr hframe :)
  obtain ⟨hon, heff⟩ := translationOn_congr (t := t) hcsr (congrArg State.priv hframe :) ty
  unfold translateCycle translateWith at h ⊢
  split at h
  case isFalse => cases h
  case isTrue hon' =>
    rw [hon, if_pos hon', heff]
    unfold walk at h ⊢
    rw [hcsr]
    rcases hr : pteReadHook s (pteAddress (pageAddress (satpPpn s.csr.satp)) (va.extractLsb' 22 10)) with ⟨r, u⟩
    rw [hr] at h
    cases r with
    | fault => cases h
    | pending =>
      cases h
      obtain ⟨hcached, hsame, rfl | hbusy⟩ := pteReadHook_pending hr
      · exact absurd ht hs
      · rw [pteReadHook_busy hbusy, cachedPte_congr hsame, hcached]
        exact ⟨hbusy, rfl⟩
    | ok pte =>
      obtain ⟨hcached, hreq⟩ := pteReadHook_ok hr
      dsimp only at h
      cases hc : pteClass pte with
      | invalid => rw [hc] at h; cases h
      | leaf => rw [hc] at h; exact absurd (congrArg Prod.fst h) (leafResult_ne_pending u _ _ _ _ _)
      | pointer =>
        rw [hc] at h
        obtain ⟨hcached0, hsame, rfl | hbusy⟩ := walkLevel0_armed h
        · exact absurd (hreq ▸ ht) hs
        · rw [pteReadHook_busy hbusy, cachedPte_congr hsame, hcached]
          dsimp only
          rw [hc]
          exact ⟨hbusy, walkLevel0_pending_of_cached hbusy _ _ ((cachedPte_congr hsame _).trans hcached0)⟩

end Walk

/-! ## Which slots are active -/

/-- No slot is active. -/
structure Bus.Quiet (b : Bus) : Prop where
  fetch : ¬b.fetchReq.active
  load : ¬b.loadReq.active
  mmu : ¬b.mmuReq.active
  write : ¬b.writeReq.active

namespace State.SlotsFollowStage
variable {s t : State}

theorem of_quiet (h : s.bus.Quiet) : s.SlotsFollowStage := by
  obtain ⟨hf, hl, hm, hw⟩ := h
  exact ⟨by simp [Bus.atMostOne, hf, hl, hm], fun h => absurd h hf, fun h => absurd h hl, fun h => absurd h hw,
    fun h => absurd h hm⟩

theorem of_halted (hs : s.stage = .halted) (h : s.bus.atMostOne) : s.SlotsFollowStage :=
  ⟨h, fun _ => .inr hs, fun _ => .inr hs, fun _ => .inr (.inr hs), fun _ => .inr hs⟩

/-- Only the fetch slot may be active. -/
theorem of_waitFetch (hs : s.stage = .waitFetch) (hl : ¬s.bus.loadReq.active) (hm : ¬s.bus.mmuReq.active)
    (hw : ¬s.bus.writeReq.active) : s.SlotsFollowStage :=
  ⟨by simp [Bus.atMostOne, hl, hm, hw], fun _ => .inl hs, fun h => absurd h hl, fun h => absurd h hw,
    fun h => absurd h hm⟩

/-- Only the load slot may be active. -/
theorem of_waitLoad (hs : s.stage = .waitData) (hk : s.memop.kind ≠ .store) (hf : ¬s.bus.fetchReq.active)
    (hm : ¬s.bus.mmuReq.active) (hw : ¬s.bus.writeReq.active) : s.SlotsFollowStage :=
  ⟨by simp [Bus.atMostOne, hf, hm, hw], fun h => absurd h hf, fun _ => .inl ⟨hs, hk⟩, fun h => absurd h hw,
    fun h => absurd h hm⟩

/-- Only the write slot may be active. -/
theorem of_waitWrite (hs : s.stage = .waitData ∧ s.memop.kind = .store ∨ s.stage = .waitAmoWrite)
    (hf : ¬s.bus.fetchReq.active) (hl : ¬s.bus.loadReq.active) (hm : ¬s.bus.mmuReq.active) : s.SlotsFollowStage :=
  ⟨by simp [Bus.atMostOne, hf, hl, hm], fun h => absurd h hf, fun h => absurd h hl,
    fun _ => hs.imp_right .inl, fun h => absurd h hm⟩

/-- Only the MMU's slot may be active. -/
theorem of_walk (hf : ¬s.bus.fetchReq.active) (hl : ¬s.bus.loadReq.active) (hw : ¬s.bus.writeReq.active)
    (hm : s.bus.mmuReq.active → s.flags.translationPending ∧ s.hookBusy ∧ s.walkWaits) : s.SlotsFollowStage := by
  refine ⟨by simp [Bus.atMostOne, hf, hl, hw], fun h => absurd h hf, fun h => absurd h hl, fun h => absurd h hw,
    fun h => .inl ?_⟩
  obtain ⟨hflag, ⟨hp, hr⟩, hwait⟩ := hm h
  exact ⟨hflag, hp, by simp [hr], hwait⟩

section Inactive
variable (h : s.SlotsFollowStage)
include h

theorem fetch_inactive (h1 : s.stage ≠ .waitFetch) (h2 : s.stage ≠ .halted) : ¬s.bus.fetchReq.active :=
  fun ha => (h.fetch ha).elim h1 h2

theorem load_inactive (h1 : ¬(s.stage = .waitData ∧ s.memop.kind ≠ .store)) (h2 : s.stage ≠ .halted) :
    ¬s.bus.loadReq.active :=
  fun ha => (h.load ha).elim h1 h2

theorem write_inactive (h1 : ¬(s.stage = .waitData ∧ s.memop.kind = .store)) (h2 : s.stage ≠ .waitAmoWrite)
    (h3 : s.stage ≠ .halted) : ¬s.bus.writeReq.active :=
  fun ha => (h.write ha).elim h1 fun h' => h'.elim h2 h3

theorem mmu_inactive (h1 : s.stage ≠ .prepareFetch) (h2 : s.stage ≠ .prepareData) (h3 : s.stage ≠ .halted) :
    ¬s.bus.mmuReq.active := by
  intro ha
  rcases h.mmu ha with ⟨-, -, -, ⟨hst, -⟩ | ⟨hst, -⟩⟩ | hst
  exacts [h1 hst, h2 hst, h3 hst]

theorem mmu_waits (h3 : s.stage ≠ .halted) (ha : s.bus.mmuReq.active) :
    s.flags.translationPending ∧ s.hookBusy ∧ s.walkWaits := by
  rcases h.mmu ha with ⟨hflag, hp, hr, hwait⟩ | hst
  · exact ⟨hflag, ⟨hp, by simpa using hr⟩, hwait⟩
  · exact absurd hst h3

end Inactive
end State.SlotsFollowStage

/-! ## The bus phases -/

/-- What the walk of the current stage looks at, and the stage itself, are as in `s`. -/
structure State.SameWalk (s t : State) : Prop where
  hook : s.sameForHook t
  stage : t.stage = s.stage
  pc : t.pc = s.pc
  x : t.x = s.x
  instWord : t.instWord = s.instWord

theorem preDecode_congr {s t : State} (h : t.x = s.x) (i : Instr) : preDecode i t = preDecode i s := by
  have hreg (r : Reg) : t.reg r = s.reg r := by simp [State.reg, h]
  cases i <;> simp [preDecode, loadReq, storeReq, lrReq, amoReq, effectiveAddress, hreg]

theorem preDecodeWord_congr {s t : State} (hx : t.x = s.x) (hi : t.instWord = s.instWord) :
    preDecodeWord t = preDecodeWord s := by
  unfold preDecodeWord
  rw [hi]
  cases decode s.instWord with
  | ok i => exact preDecode_congr hx i
  | error e => rfl

theorem State.walkWaits.congr {s t : State} (h : s.walkWaits) (hs : s.hookBusy) (ht : t.hookBusy)
    (hst : s.SameWalk t) : t.walkWaits := by
  rcases h with ⟨hstage, hwalk⟩ | ⟨hstage, m, hm, ha, hwalk⟩
  · refine .inl ⟨hst.stage.trans hstage, ?_⟩
    rw [hst.pc, translateCycle_busy_congr hs ht hst.hook, hwalk]
  · refine .inr ⟨hst.stage.trans hstage, m, (preDecodeWord_congr hst.x hst.instWord).trans hm, ha, ?_⟩
    rw [translateCycle_busy_congr hs ht hst.hook, hwalk]

/-- What the bus phases do to the slots and the mailbox: the MMU's request may be answered, no other slot's state changes. -/
structure Bus.SameSlots (b c : Bus) : Prop where
  fetch : c.fetchReq.active = b.fetchReq.active
  load : c.loadReq.active = b.loadReq.active
  write : c.writeReq.active = b.writeReq.active
  mmu : c.mmuReq.active → b.mmuReq.active ∧ c.mmuHook.pending = b.mmuHook.pending ∧
    c.mmuHook.responseValid = b.mmuHook.responseValid

theorem Bus.SameSlots.trans {b c d : Bus} (h : b.SameSlots c) (h' : c.SameSlots d) : b.SameSlots d := by
  refine ⟨h'.fetch.trans h.fetch, h'.load.trans h.load, h'.write.trans h.write, fun ha => ?_⟩
  obtain ⟨ha, hp, hr⟩ := h'.mmu ha
  obtain ⟨ha', hp', hr'⟩ := h.mmu ha
  exact ⟨ha', hp.trans hp', hr.trans hr'⟩

section BusPhases
variable (inp : AxiIn) (o : AxiOut) (s : State)

theorem arHandshake_sameSlots (r : Bool) (b : Bus) : b.SameSlots (arHandshake r b) := by
  unfold arHandshake
  repeat' split
  all_goals exact ⟨rfl, rfl, rfl, fun h => ⟨h, rfl, rfl⟩⟩

theorem awHandshake_sameSlots (r : Bool) (b : Bus) : b.SameSlots (awHandshake r b) := by
  unfold awHandshake
  split
  all_goals exact ⟨rfl, rfl, rfl, fun h => ⟨h, rfl, rfl⟩⟩

theorem captureR_sameSlots : s.bus.SameSlots (captureR inp o s).bus := by
  unfold captureR
  repeat' split
  all_goals exact ⟨rfl, rfl, rfl, fun h => ⟨h, rfl, rfl⟩⟩

theorem captureW_sameSlots : s.bus.SameSlots (captureW inp o s).bus := by
  unfold captureW
  split
  all_goals exact ⟨rfl, rfl, rfl, fun h => ⟨h, rfl, rfl⟩⟩

theorem captureB_sameSlots : s.bus.SameSlots (captureB inp o s).bus := by
  unfold captureB
  split
  all_goals exact ⟨rfl, rfl, rfl, fun h => ⟨h, rfl, rfl⟩⟩

theorem completeMmu_sameSlots : s.bus.SameSlots (completeMmu s).bus := by
  unfold completeMmu
  split
  · exact ⟨rfl, rfl, rfl, fun h => by cases h⟩
  · exact ⟨rfl, rfl, rfl, fun h => ⟨h, rfl, rfl⟩⟩

/-- Phase (a): the outputs are driven and the address handshakes done (R452-R458, R462). -/
def handshakes : State :=
  { s with bus := { awHandshake inp.awready (arHandshake inp.arready s.bus) with
    axiIn := inp, axiOut := masterOutputs s.bus } }

theorem busPhases_eq :
    busPhases inp s = completeMmu (captureB inp (masterOutputs s.bus) (captureW inp (masterOutputs s.bus)
      (captureR inp (masterOutputs s.bus) (handshakes inp s)))) := rfl

theorem handshakes_sameSlots : s.bus.SameSlots (handshakes inp s).bus := by
  obtain ⟨hf, hl, hw, hm⟩ := (arHandshake_sameSlots inp.arready s.bus).trans (awHandshake_sameSlots inp.awready _)
  exact ⟨hf, hl, hw, hm⟩

theorem busPhases_sameSlots : s.bus.SameSlots (busPhases inp s).bus := by
  rw [busPhases_eq]
  exact (handshakes_sameSlots inp s).trans ((captureR_sameSlots inp _ _).trans ((captureW_sameSlots inp _ _).trans
    ((captureB_sameSlots inp _ _).trans (completeMmu_sameSlots _))))

theorem busPhases_sameWalk : s.SameWalk (busPhases inp s) := by
  have h := busPhases_frame inp s
  exact ⟨⟨(congrArg State.csr h :), (congrArg State.priv h :), (congrArg State.ptw h :), (congrArg State.cfg h :)⟩,
    (congrArg State.stage h :), (congrArg State.pc h :), (congrArg State.x h :), (congrArg State.instWord h :)⟩

variable {s} in
theorem busPhases_slotsFollowStage (h : s.SlotsFollowStage) : (busPhases inp s).SlotsFollowStage := by
  have hframe := busPhases_frame inp s
  have hwalk := busPhases_sameWalk inp s
  have hstage := hwalk.stage
  have hkind : (busPhases inp s).memop.kind = s.memop.kind := (congrArg (fun u : State => u.memop.kind) hframe :)
  have hflag : (busPhases inp s).flags = s.flags := (congrArg State.flags hframe :)
  obtain ⟨hf, hl, hw, hm⟩ := busPhases_sameSlots inp s
  refine ⟨?_, ?_, ?_, ?_, ?_⟩
  · obtain ⟨h1, h2, h3, h4, h5, h6⟩ := h.one
    simp only [Bus.atMostOne, hf, hl, hw]
    exact ⟨h1, fun h' => h2 ⟨h'.1, (hm h'.2).1⟩, h3, fun h' => h4 ⟨h'.1, (hm h'.2).1⟩, h5,
      fun h' => h6 ⟨(hm h'.1).1, h'.2⟩⟩
  · rw [hf, hstage]; exact h.fetch
  · rw [hl, hstage, hkind]; exact h.load
  · rw [hw, hstage, hkind]; exact h.write
  · intro ha
    obtain ⟨ha', hp, hr⟩ := hm ha
    rcases h.mmu ha' with ⟨hfl, hpend, hresp, hwait⟩ | hst
    · have hbusy : s.hookBusy := ⟨hpend, by simpa using hresp⟩
      have hbusy' : (busPhases inp s).hookBusy := ⟨hp.trans hbusy.1, hr.trans hbusy.2⟩
      exact .inl ⟨hflag ▸ hfl, hbusy'.1, by simp [hbusy'.2], hwait.congr hbusy hbusy' hwalk⟩
    · exact .inr (hstage.trans hst)

end BusPhases

/-! ## The stages -/

section WalkEnds
variable {s t : State} {va : Word} {ty : Access}

/-- A walk from a state in which no other slot is active: it leaves none active but the MMU's, and that one only where it
waits for the answer; tried again then, it waits again. -/
theorem translateCycle_slots {r : Translation} (hf : ¬s.bus.fetchReq.active) (hl : ¬s.bus.loadReq.active)
    (hw : ¬s.bus.writeReq.active)
    (hwaits : s.bus.mmuReq.active → s.hookBusy ∧ (translateCycle s va ty).1 = .pending)
    (hr : translateCycle s va ty = (r, t)) :
    ¬t.bus.fetchReq.active ∧ ¬t.bus.loadReq.active ∧ ¬t.bus.writeReq.active ∧
    (r ≠ .pending → ¬t.bus.mmuReq.active) ∧
    (r = .pending → t.bus.mmuReq.active → t.hookBusy ∧ (translateCycle t va ty).1 = .pending) := by
  have hframe := translateCycle_hookFrame s va ty
  rw [hr] at hframe
  refine ⟨?_, ?_, ?_, fun hne ht => ?_, ?_⟩
  · rwa [(congrArg (fun u : State => u.bus.fetchReq) hframe :)]
  · rwa [(congrArg (fun u : State => u.bus.loadReq) hframe :)]
  · rwa [(congrArg (fun u : State => u.bus.writeReq) hframe :)]
  · have hne' : (translateCycle s va ty).1 ≠ .pending := by rw [hr]; exact hne
    have hreq := translateCycle_request hne'
    rw [hr] at hreq
    exact hne' (hwaits (hreq ▸ ht)).2
  · rintro rfl ht
    by_cases ha : s.bus.mmuReq.active
    · obtain rfl : t = s := by rw [← translateCycle_busy (hwaits ha).1 va ty, hr]
      exact hwaits ha
    · exact translateCycle_armed hr ha ht

end WalkEnds

theorem armData_slots {s : State} {m : MemReq} (pa : Word) (h : s.bus.Quiet) :
    (armData m pa s).SlotsFollowStage := by
  obtain ⟨hf, hl, hm, hw⟩ := h
  unfold armData
  dsimp only
  split
  next hk => exact .of_waitWrite (.inl ⟨rfl, hk⟩) hf hl hm
  next hk => exact .of_waitLoad rfl (by simp [State.goto, latchRequest, hk]) hf hm hw
  next hk => exact .of_waitLoad rfl (by simp [State.goto, latchRequest, hk]) hf hm hw
  next => exact .of_quiet ⟨hf, hl, hm, hw⟩

/-- A change that touches neither slots nor mailbox, nor what the walk of the stage looks at. -/
theorem State.walkWaits.of_sameWalk {s t : State} (h : s.walkWaits) (hs : s.hookBusy) (hb : t.bus = s.bus)
    (hst : s.SameWalk t) : t.walkWaits :=
  h.congr hs (by rw [State.hookBusy, hb]; exact hs) hst

section Stages
variable {s : State} (h : s.SlotsFollowStage)
include h

theorem stagePrepareFetch_slots (hst : s.stage = .prepareFetch) : (stagePrepareFetch s).SlotsFollowStage := by
  have hf := h.fetch_inactive (by simp [hst]) (by simp [hst])
  have hl := h.load_inactive (by simp [hst]) (by simp [hst])
  have hw := h.write_inactive (by simp [hst]) (by simp [hst]) (by simp [hst])
  have hbegin : s.SameWalk { beginFetch s with flags.translationPending := false } ∧ (beginFetch s).bus = s.bus := by
    unfold beginFetch
    split <;> exact ⟨⟨⟨rfl, rfl, rfl, rfl⟩, rfl, rfl, rfl, rfl⟩, rfl⟩
  unfold stagePrepareFetch
  dsimp only
  generalize hs1 : ({ beginFetch s with flags.translationPending := false } : State) = s1 at *
  obtain ⟨hsame, hbus⟩ := hbegin
  have hbus1 : s1.bus = s.bus := by rw [← hs1]; exact hbus
  have hpc1 : (beginFetch s).pc = s1.pc := by rw [← hs1]
  rw [hpc1]
  have hwaits (ha : s1.bus.mmuReq.active) : s1.hookBusy ∧ (translateCycle s1 s1.pc .fetch).1 = .pending := by
    obtain ⟨-, hbusy, hwait⟩ := h.mmu_waits (by simp [hst]) (hbus1 ▸ ha)
    refine ⟨by rw [State.hookBusy, hbus1]; exact hbusy, ?_⟩
    rcases hwait.of_sameWalk hbusy hbus1 hsame with ⟨-, hw⟩ | ⟨hst', -⟩
    · exact hw
    · exact absurd (hsame.stage.symm.trans hst') (by simp [hst])
  have hframe := translateCycle_hookFrame s1 s1.pc .fetch
  rw [← hbus1] at hf hl hw
  rcases hr : translateCycle s1 s1.pc .fetch with ⟨r, s2⟩
  rw [hr] at hframe
  obtain ⟨hf2, hl2, hw2, hended, hpending⟩ := translateCycle_slots hf hl hw hwaits hr
  cases r with
  | pending =>
    refine .of_walk hf2 hl2 hw2 fun ha => ?_
    obtain ⟨hbusy, hpend⟩ := hpending rfl ha
    have hstage : s2.stage = .prepareFetch := (congrArg State.stage hframe :).trans (hsame.stage.trans hst)
    have hpc : s2.pc = s1.pc := (congrArg State.pc hframe :)
    have hwait : s2.walkWaits := .inl ⟨hstage, hpc ▸ hpend⟩
    exact ⟨rfl, hbusy, hwait.of_sameWalk hbusy rfl ⟨⟨rfl, rfl, rfl, rfl⟩, rfl, rfl, rfl, rfl⟩⟩
  | pageFault => exact .of_quiet ⟨hf2, hl2, hended (by simp), hw2⟩
  | accessFault => exact .of_quiet ⟨hf2, hl2, hended (by simp), hw2⟩
  | ok pa =>
    dsimp only
    split
    · exact .of_waitFetch rfl hl2 (hended (by simp)) hw2
    · exact .of_quiet ⟨hf2, hl2, hended (by simp), hw2⟩

theorem stageWaitFetch_slots (hst : s.stage = .waitFetch) : (stageWaitFetch s).SlotsFollowStage := by
  have hl := h.load_inactive (by simp [hst]) (by simp [hst])
  have hw := h.write_inactive (by simp [hst]) (by simp [hst]) (by simp [hst])
  have hm := h.mmu_inactive (by simp [hst]) (by simp [hst]) (by simp [hst])
  unfold stageWaitFetch
  split
  · dsimp only
    split
    · exact .of_quiet ⟨by simp [fetchFailed], hl, hm, hw⟩
    · exact .of_quiet ⟨by simp, hl, hm, hw⟩
  · exact h

theorem stagePrepareData_slots (hst : s.stage = .prepareData) : (stagePrepareData s).SlotsFollowStage := by
  have hf := h.fetch_inactive (by simp [hst]) (by simp [hst])
  have hl := h.load_inactive (by simp [hst]) (by simp [hst])
  have hw := h.write_inactive (by simp [hst]) (by simp [hst]) (by simp [hst])
  have hwaits (ha : s.bus.mmuReq.active) : s.hookBusy ∧ ∃ m, preDecodeWord s = some m ∧
      misaligned m.size m.va = false ∧ (translateCycle s m.va m.type).1 = .pending := by
    obtain ⟨-, hbusy, ⟨hst', -⟩ | ⟨-, hm⟩⟩ := h.mmu_waits (by simp [hst]) ha
    · rw [hst] at hst'; cases hst'
    · exact ⟨hbusy, hm⟩
  unfold stagePrepareData
  dsimp only
  generalize hs1 : ({ s with flags.translationPending := false } : State) = s1 at *
  have hsame : s.SameWalk s1 := hs1 ▸ ⟨⟨rfl, rfl, rfl, rfl⟩, rfl, rfl, rfl, rfl⟩
  have hbus1 : s1.bus = s.bus := by rw [← hs1]
  rw [preDecodeWord_congr hsame.x hsame.instWord]
  rw [← hbus1] at hf hl hw hwaits
  cases hd : preDecodeWord s with
  | none =>
    have hm : ¬s1.bus.mmuReq.active := fun ha => by
      obtain ⟨-, m, hm, -⟩ := hwaits ha
      rw [hd] at hm
      cases hm
    exact .of_quiet ⟨hf, hl, hm, hw⟩
  | some m =>
    have hwaits1 (ha : s1.bus.mmuReq.active) : misaligned m.size m.va = false ∧ s1.hookBusy ∧
        (translateCycle s1 m.va m.type).1 = .pending := by
      obtain ⟨hbusy, m', hm, hal, hp⟩ := hwaits ha
      obtain rfl := Option.some.inj (hd.symm.trans hm)
      have hbusy1 : s1.hookBusy := by rw [State.hookBusy, hbus1]; exact hbusy
      exact ⟨hal, hbusy1, (translateCycle_busy_congr hbusy hbusy1 hsame.hook _ _).trans hp⟩
    dsimp only
    split
    next hal =>
      have hm : ¬s1.bus.mmuReq.active := fun ha => by rw [(hwaits1 ha).1] at hal; cases hal
      exact .of_quiet (by simpa [State.goto] using Bus.Quiet.mk hf hl hm hw)
    next hal =>
      have hframe := translateCycle_hookFrame s1 m.va m.type
      rcases hr : translateCycle s1 m.va m.type with ⟨r, s2⟩
      rw [hr] at hframe
      obtain ⟨hf2, hl2, hw2, hended, hpending⟩ := translateCycle_slots hf hl hw (fun ha => (hwaits1 ha).2) hr
      cases r with
      | pending =>
        refine .of_walk hf2 hl2 hw2 fun ha => ?_
        obtain ⟨hbusy, hpend⟩ := hpending rfl ha
        have hstage : s2.stage = .prepareData := (congrArg State.stage hframe :).trans (hsame.stage.trans hst)
        have hx : s2.x = s.x := (congrArg State.x hframe :).trans hsame.x
        have hi : s2.instWord = s.instWord := (congrArg State.instWord hframe :).trans hsame.instWord
        have hwait : s2.walkWaits :=
          .inr ⟨hstage, m, (preDecodeWord_congr hx hi).trans hd, by simpa using hal, hpend⟩
        exact ⟨rfl, hbusy, hwait.of_sameWalk hbusy rfl ⟨⟨rfl, rfl, rfl, rfl⟩, rfl, rfl, rfl, rfl⟩⟩
      | pageFault => exact .of_quiet (by simpa [State.goto] using Bus.Quiet.mk hf2 hl2 (hended (by simp)) hw2)
      | accessFault => exact .of_quiet (by simpa [State.goto] using Bus.Quiet.mk hf2 hl2 (hended (by simp)) hw2)
      | ok pa =>
        have hquiet : s2.bus.Quiet := ⟨hf2, hl2, hended (by simp), hw2⟩
        dsimp only
        split
        · exact armData_slots pa hquiet
        · exact .of_quiet (by simpa [State.goto] using hquiet)

theorem stageWaitData_slots (hst : s.stage = .waitData) : (stageWaitData s).SlotsFollowStage := by
  have hf := h.fetch_inactive (by simp [hst]) (by simp [hst])
  have hm := h.mmu_inactive (by simp [hst]) (by simp [hst]) (by simp [hst])
  have answered {t : State} (ht : t.bus.Quiet) (e : Bool) (ty : Access) :
      ((flagError e ty t).goto .execute).SlotsFollowStage := .of_quiet (by simpa [State.goto] using ht)
  unfold stageWaitData
  split
  next hk =>
    have hl := h.load_inactive (fun hd => hd.2 hk) (by simp [hst])
    split
    · exact answered (by exact ⟨hf, hl, hm, Bool.false_ne_true⟩) _ _
    · exact h
  next hk =>
    have hw := h.write_inactive (fun hd => hk hd.2) (by simp [hst]) (by simp [hst])
    split
    · exact answered (by exact ⟨hf, Bool.false_ne_true, hm, hw⟩) _ _
    · exact h

theorem stageExecute_slots {t : State} (hst : s.stage = .execute) (ht : stageExecute s = .next t) :
    t.SlotsFollowStage := by
  have hf := h.fetch_inactive (by simp [hst]) (by simp [hst])
  have hl := h.load_inactive (by simp [hst]) (by simp [hst])
  have hm := h.mmu_inactive (by simp [hst]) (by simp [hst]) (by simp [hst])
  have hw := h.write_inactive (by simp [hst]) (by simp [hst]) (by simp [hst])
  unfold stageExecute at ht
  split at ht <;> cases ht
  next u hu =>
    have hbus : u.bus = s.bus := (congrArg State.bus (execStage_frame hu) :)
    rw [← hbus] at hf hl hm hw
    unfold afterExec
    dsimp only
    split
    · exact .of_quiet ⟨hf, hl, hm, hw⟩
    · split
      · exact .of_waitWrite (.inr rfl) hf hl hm
      · exact .of_quiet ⟨hf, hl, hm, hw⟩

theorem stageWaitAmoWrite_slots {t : State} (hst : s.stage = .waitAmoWrite) (ht : stageWaitAmoWrite s = .next t) :
    t.SlotsFollowStage := by
  have hf := h.fetch_inactive (by simp [hst]) (by simp [hst])
  have hl := h.load_inactive (by simp [hst]) (by simp [hst])
  have hm := h.mmu_inactive (by simp [hst]) (by simp [hst]) (by simp [hst])
  unfold stageWaitAmoWrite at ht
  split at ht
  · split at ht <;> cases ht
    exact .of_quiet ⟨hf, hl, hm, by simp⟩
  · cases ht; exact h

theorem advanceStage_slots {t : State} (hst : s.stage ≠ .halted) (ht : advanceStage s = .next t) :
    t.SlotsFollowStage := by
  unfold advanceStage at ht
  split at ht
  next hlim =>
    cases ht
    unfold limitHalt at hlim
    split at hlim
    · cases hlim; exact .of_halted rfl h.one
    · split at hlim <;> cases hlim
      exact .of_halted rfl h.one
  next =>
    unfold stageTransition at ht
    cases hs : s.stage <;> simp only [hs] at ht
    case execute => exact stageExecute_slots h hs ht
    case waitAmoWrite => exact stageWaitAmoWrite_slots h hs ht
    case halted => exact absurd hs hst
    all_goals cases ht
    case prepareFetch => exact stagePrepareFetch_slots h hs
    case waitFetch => exact stageWaitFetch_slots h hs
    case prepareData => exact stagePrepareData_slots h hs
    case waitData => exact stageWaitData_slots h hs

end Stages

/-- The end of a tick touches neither slots nor stage. -/
theorem endTick_slots {s : State} (h : s.SlotsFollowStage) (uart : Option Byte) :
    (endTick uart s).SlotsFollowStage := by
  have hframe := endTick_frame uart s
  have hbus : (endTick uart s).bus = s.bus := (congrArg State.bus hframe :)
  have hkind : (endTick uart s).memop = s.memop := (congrArg State.memop hframe :)
  have hflags : (endTick uart s).flags = s.flags := (congrArg State.flags hframe :)
  have hsame : s.SameWalk (endTick uart s) :=
    ⟨⟨by simp, by simp, (congrArg State.ptw hframe :), (congrArg State.cfg hframe :)⟩, by simp, by simp, by simp,
      (congrArg State.instWord hframe :)⟩
  refine ⟨?_, ?_, ?_, ?_, ?_⟩
  · rw [hbus]; exact h.one
  · rw [hbus, endTick_stage]; exact h.fetch
  · rw [hbus, endTick_stage, hkind]; exact h.load
  · rw [hbus, endTick_stage, hkind]; exact h.write
  · rw [hbus, endTick_stage, hflags]
    intro ha
    rcases h.mmu ha with ⟨hflag, hp, hr, hwait⟩ | hst
    · exact .inl ⟨hflag, hp, hr, hwait.of_sameWalk ⟨hp, by simpa using hr⟩ hbus hsame⟩
    · exact .inr hst

/-- Settles O57: the bus phases deactivate no slot but the MMU's, and each stage deactivates its slot where it leaves the
stage and arms the slot of the stage it enters. -/
theorem slotsFollowStageKeptByTick : Obligations.SlotsFollowStageKeptByTick := by
  intro inp s t h ht
  by_cases hs : s.stage = .halted
  · rw [tick_halted inp hs] at ht
    cases ht
    exact .of_halted hs h.one
  · obtain ⟨u, hu, rfl⟩ := (tick_eq_next_iff inp hs t).1 ht
    have hbus : (busPhases inp s).stage ≠ .halted := by rwa [(busPhases_sameWalk inp s).stage]
    exact endTick_slots (advanceStage_slots (busPhases_slotsFollowStage inp h) hbus hu) _

end Sys2Proof.Machine
end

section
/-! PROOFS. The family of spec/51_axi_master.md: the channels show the request of the active slot, and hold it until it is
accepted (R452-R455, R458, R462). -/

namespace Sys2Proof.Machine

/-! ## The address channels (R453, R454) -/

/-- A read slot's request as it stands on the AR channel. -/
structure ReadReq.OnAr (q : ReadReq) (o : AxiOut) : Prop where
  valid : o.arvalid = true
  addr : o.araddr = q.addr
  id : o.arid = wireId q.master q.id
  len : o.arlen = BitVec.ofNat 8 (q.totalBeats - 1)
  size : o.arsize = 2#3
  burst : o.arburst = 1#2

/-- The write slot's request as it stands on the AW channel. -/
structure WriteReq.OnAw (q : WriteReq) (o : AxiOut) : Prop where
  valid : o.awvalid = true
  addr : o.awaddr = q.addr
  id : o.awid = wireId q.master q.id
  len : o.awlen = BitVec.ofNat 8 (q.totalBeats - 1)
  size : o.awsize = 2#3
  burst : o.awburst = 1#2

section Channels
variable (b : Bus)

/-- What the write side drives leaves the AR channel alone. -/
theorem masterOutputs_ar : (masterOutputs b).arvalid = (driveAr b .idle).arvalid ∧
    ∀ q : ReadReq, q.OnAr (driveAr b .idle) → q.OnAr (masterOutputs b) := by
  unfold masterOutputs driveW driveAw
  dsimp only
  split <;> split <;> exact ⟨rfl, fun q h => ⟨h.valid, h.addr, h.id, h.len, h.size, h.burst⟩⟩

theorem arChannel_onAr (q : ReadReq) (o : AxiOut) : q.OnAr (arChannel q o) := ⟨rfl, rfl, rfl, rfl, rfl, rfl⟩

theorem unissued_of_inactive {q : ReadReq} (h : ¬q.active) : ¬q.unissued = true := by simp [ReadReq.unissued, h]

section Slots
variable {b}

theorem fetchReq_onAr (h : b.fetchReq.unissued = true) : b.fetchReq.OnAr (masterOutputs b) := by
  refine (masterOutputs_ar b).2 _ ?_
  rw [driveAr, if_pos h]
  exact arChannel_onAr ..

theorem loadReq_onAr (hf : ¬b.fetchReq.active) (h : b.loadReq.unissued = true) :
    b.loadReq.OnAr (masterOutputs b) := by
  refine (masterOutputs_ar b).2 _ ?_
  rw [driveAr, if_neg (unissued_of_inactive hf), if_pos h]
  exact arChannel_onAr ..

theorem mmuReq_onAr (hf : ¬b.fetchReq.active) (hl : ¬b.loadReq.active) (h : b.mmuReq.unissued = true) :
    b.mmuReq.OnAr (masterOutputs b) := by
  refine (masterOutputs_ar b).2 _ ?_
  rw [driveAr, if_neg (unissued_of_inactive hf), if_neg (unissued_of_inactive hl), if_pos h]
  exact arChannel_onAr ..

/-- A read slot whose address is still to be accepted is what drives `arvalid`. -/
theorem unissued_of_arvalid (h : (masterOutputs b).arvalid = true) :
    b.fetchReq.unissued = true ∨ b.loadReq.unissued = true ∨ b.mmuReq.unissued = true := by
  rw [(masterOutputs_ar b).1] at h
  unfold driveAr at h
  split at h
  · exact .inl ‹_›
  · split at h
    · exact .inr (.inl ‹_›)
    · split at h
      · exact .inr (.inr ‹_›)
      · cases h

/-- The write slot drives `awvalid` exactly while its address is still to be accepted. -/
theorem awvalid_iff : (masterOutputs b).awvalid = true ↔ (b.writeReq.active && !b.writeReq.issued) = true := by
  have har : (driveAr b .idle).awvalid = false := by
    unfold driveAr
    repeat' split
    all_goals rfl
  unfold masterOutputs driveW driveAw
  dsimp only
  split <;> split <;> simp_all

theorem writeReq_onAw (h : (b.writeReq.active && !b.writeReq.issued) = true) :
    b.writeReq.OnAw (masterOutputs b) := by
  unfold masterOutputs driveW driveAw
  rw [if_pos h]
  split <;> exact ⟨rfl, rfl, rfl, rfl, rfl, rfl⟩

/-- The W channel stays silent without a write request. -/
theorem writeSide_quiet (h : ¬b.writeReq.active) : (masterOutputs b).awvalid = false ∧
    (masterOutputs b).wvalid = false ∧ (masterOutputs b).bready = false := by
  have har : (driveAr b .idle).awvalid = false ∧ (driveAr b .idle).wvalid = false := by
    unfold driveAr
    repeat' split
    all_goals exact ⟨rfl, rfl⟩
  have hw : b.writeReq.active = false := by simpa using h
  simpa [masterOutputs, driveW, driveAw, hw] using har

end Slots
end Channels

/-! ## What the slots show -/

theorem readReq_signals {b : Bus} {q : ReadReq} {id : BitVec 4} (h : q.OnAr (masterOutputs b))
    (hid : wireId q.master q.id = id) (hq : q.totalBeats = 1) (hw : ¬b.writeReq.active)
    (hready : (masterOutputs b).rready = true) :
    (masterOutputs b).arvalid = true ∧ (masterOutputs b).araddr = q.addr ∧ (masterOutputs b).arid = id ∧
    (masterOutputs b).arlen = 0#8 ∧ (masterOutputs b).arsize = 2#3 ∧ (masterOutputs b).arburst = 1#2 ∧
    (masterOutputs b).rready = true ∧ (masterOutputs b).awvalid = false ∧ (masterOutputs b).wvalid = false ∧
    (masterOutputs b).bready = false :=
  ⟨h.valid, h.addr, h.id.trans hid, by rw [h.len, hq], h.size, h.burst, hready, writeSide_quiet hw⟩

/-- Settles O58: at most one slot being active, the first in R453's order that asks for the channel is it. -/
theorem masterSignalsShowTheSlot : Obligations.MasterSignalsShowTheSlot := by
  constructor
  · intro b q id hq hone hids hactive hissued hbeats
    obtain ⟨hfl, hfm, hfw, hlm, hlw, hmw⟩ := hone
    simp only [Prod.mk.injEq] at hids
    obtain ⟨hfm', hfi, hlm', hli, hmm, hmi⟩ := hids
    have hready (h : b.fetchReq.active = true ∨ b.loadReq.active = true ∨ b.mmuReq.active = true) :
        (masterOutputs b).rready = true := by
      rcases h with h | h | h <;> simp [masterOutputs, h]
    have hunissued : q.unissued = true := by simp [ReadReq.unissued, hactive, hissued]
    simp only [List.mem_cons, Prod.mk.injEq, List.not_mem_nil, or_false] at hq
    rcases hq with ⟨rfl, rfl⟩ | ⟨rfl, rfl⟩ | ⟨rfl, rfl⟩
    · exact readReq_signals (fetchReq_onAr hunissued) (by rw [hfm', hfi]; rfl) hbeats (fun h => hfw ⟨hactive, h⟩)
        (hready (.inl hactive))
    · exact readReq_signals (loadReq_onAr (fun h => hfl ⟨h, hactive⟩) hunissued) (by rw [hlm', hli]; rfl) hbeats
        (fun h => hlw ⟨hactive, h⟩) (hready (.inr (.inl hactive)))
    · exact readReq_signals (mmuReq_onAr (fun h => hfm ⟨h, hactive⟩) (fun h => hlm ⟨h, hactive⟩) hunissued)
        (by rw [hmm, hmi]; rfl) hbeats (fun h => hmw ⟨hactive, h⟩) (hready (.inr (.inr hactive)))
  · intro b d hactive hissued hbeats hseen hdata hmaster hid
    obtain ⟨hvalid, haddr, hawid, hlen, hsize, -⟩ := writeReq_onAw (b := b) (by simp [hactive, hissued])
    refine ⟨hvalid, haddr, by rw [hawid, hmaster, hid]; rfl, by rw [hlen, hbeats], hsize, ?_⟩
    simp [masterOutputs, driveW, hactive, hbeats, hseen, hdata]

/-! ## A request through a tick -/

/-- A read slot asks for the same as before, still to be accepted or not. -/
structure ReadReq.Same (q r : ReadReq) : Prop where
  active : r.active = q.active
  issued : r.issued = q.issued
  master : r.master = q.master
  id : r.id = q.id
  addr : r.addr = q.addr
  beats : r.totalBeats = q.totalBeats

/-- So does the write slot. -/
structure WriteReq.Same (q r : WriteReq) : Prop where
  active : r.active = q.active
  issued : r.issued = q.issued
  master : r.master = q.master
  id : r.id = q.id
  addr : r.addr = q.addr
  beats : r.totalBeats = q.totalBeats

theorem ReadReq.Same.refl (q : ReadReq) : q.Same q := ⟨rfl, rfl, rfl, rfl, rfl, rfl⟩

theorem WriteReq.Same.refl (q : WriteReq) : q.Same q := ⟨rfl, rfl, rfl, rfl, rfl, rfl⟩

theorem ReadReq.Same.trans {q r u : ReadReq} (h : q.Same r) (h' : r.Same u) : q.Same u :=
  ⟨h'.active.trans h.active, h'.issued.trans h.issued, h'.master.trans h.master, h'.id.trans h.id,
    h'.addr.trans h.addr, h'.beats.trans h.beats⟩

theorem WriteReq.Same.trans {q r u : WriteReq} (h : q.Same r) (h' : r.Same u) : q.Same u :=
  ⟨h'.active.trans h.active, h'.issued.trans h.issued, h'.master.trans h.master, h'.id.trans h.id,
    h'.addr.trans h.addr, h'.beats.trans h.beats⟩

theorem ReadReq.Same.unissued {q r : ReadReq} (h : q.Same r) : r.unissued = q.unissued := by
  rw [ReadReq.unissued, ReadReq.unissued, h.active, h.issued]

theorem ReadReq.OnAr.hold {q r : ReadReq} {o p : AxiOut} (hq : q.OnAr o) (hr : r.OnAr p) (h : q.Same r) :
    p.arvalid = true ∧ p.araddr = o.araddr ∧ p.arid = o.arid ∧ p.arlen = o.arlen ∧ p.arsize = o.arsize ∧
    p.arburst = o.arburst :=
  ⟨hr.valid, by rw [hr.addr, hq.addr, h.addr], by rw [hr.id, hq.id, h.master, h.id], by rw [hr.len, hq.len, h.beats],
    by rw [hr.size, hq.size], by rw [hr.burst, hq.burst]⟩

theorem WriteReq.OnAw.hold {q r : WriteReq} {o p : AxiOut} (hq : q.OnAw o) (hr : r.OnAw p) (h : q.Same r) :
    p.awvalid = true ∧ p.awaddr = o.awaddr ∧ p.awid = o.awid ∧ p.awlen = o.awlen ∧ p.awsize = o.awsize ∧
    p.awburst = o.awburst :=
  ⟨hr.valid, by rw [hr.addr, hq.addr, h.addr], by rw [hr.id, hq.id, h.master, h.id], by rw [hr.len, hq.len, h.beats],
    by rw [hr.size, hq.size], by rw [hr.burst, hq.burst]⟩

/-! ### The bus phases -/

/-- No read slot asks for something else; the MMU's may be answered once its address is accepted. -/
structure Bus.HoldsReads (b c : Bus) : Prop where
  fetch : b.fetchReq.Same c.fetchReq
  load : b.loadReq.Same c.loadReq
  mmu : b.mmuReq.issued = false → b.mmuReq.Same c.mmuReq

theorem Bus.HoldsReads.trans {b c d : Bus} (h : b.HoldsReads c) (h' : c.HoldsReads d) : b.HoldsReads d :=
  ⟨h.fetch.trans h'.fetch, h.load.trans h'.load,
    fun hi => (h.mmu hi).trans (h'.mmu ((h.mmu hi).issued.trans hi))⟩

theorem Bus.HoldsReads.of_eq {b c : Bus} (hf : c.fetchReq = b.fetchReq) (hl : c.loadReq = b.loadReq)
    (hm : c.mmuReq = b.mmuReq) : b.HoldsReads c :=
  ⟨hf ▸ .refl _, hl ▸ .refl _, fun _ => hm ▸ .refl _⟩

section BusPhases
variable (inp : AxiIn) (o : AxiOut) (s : State)

theorem awHandshake_reads (r : Bool) (b : Bus) : b.HoldsReads (awHandshake r b) := by
  unfold awHandshake
  split <;> exact .of_eq rfl rfl rfl

theorem arHandshake_write (r : Bool) (b : Bus) : (arHandshake r b).writeReq = b.writeReq := by
  unfold arHandshake
  repeat' split
  all_goals rfl

theorem captureR_reads : s.bus.HoldsReads (captureR inp o s).bus := by
  have captured (q : ReadReq) : q.Same (q.capture inp) := ⟨rfl, rfl, rfl, rfl, rfl, rfl⟩
  unfold captureR
  repeat' split
  · exact .of_eq rfl rfl rfl
  · exact ⟨captured _, .refl _, fun _ => .refl _⟩
  · exact ⟨.refl _, captured _, fun _ => .refl _⟩
  · exact ⟨.refl _, .refl _, fun _ => captured _⟩
  · exact .of_eq rfl rfl rfl

theorem captureR_write : (captureR inp o s).bus.writeReq = s.bus.writeReq := by
  unfold captureR
  repeat' split
  all_goals rfl

theorem captureW_reads : s.bus.HoldsReads (captureW inp o s).bus := by
  unfold captureW
  split <;> exact .of_eq rfl rfl rfl

theorem captureW_write : s.bus.writeReq.Same (captureW inp o s).bus.writeReq := by
  unfold captureW
  split <;> exact ⟨rfl, rfl, rfl, rfl, rfl, rfl⟩

theorem captureB_reads : s.bus.HoldsReads (captureB inp o s).bus := by
  unfold captureB
  split <;> exact .of_eq rfl rfl rfl

theorem captureB_write : s.bus.writeReq.Same (captureB inp o s).bus.writeReq := by
  unfold captureB
  split <;> exact ⟨rfl, rfl, rfl, rfl, rfl, rfl⟩

theorem completeMmu_reads : s.bus.HoldsReads (completeMmu s).bus := by
  unfold completeMmu
  split
  next h => exact ⟨.refl _, .refl _, fun hi => by simp [hi] at h⟩
  next => exact .of_eq rfl rfl rfl

theorem completeMmu_write : (completeMmu s).bus.writeReq = s.bus.writeReq := by
  unfold completeMmu
  split <;> rfl

/-- Without `arready` no read slot's request changes in the bus phases. -/
theorem busPhases_reads (h : inp.arready = false) : s.bus.HoldsReads (busPhases inp s).bus := by
  have hshake : s.bus.HoldsReads (handshakes inp s).bus := by
    obtain ⟨hf, hl, hm⟩ := awHandshake_reads inp.awready s.bus
    unfold handshakes arHandshake
    rw [h]
    exact ⟨hf, hl, hm⟩
  rw [busPhases_eq]
  exact hshake.trans ((captureR_reads inp _ _).trans ((captureW_reads inp _ _).trans ((captureB_reads inp _ _).trans
    (completeMmu_reads _))))

/-- Without `awready` the write slot's request does not change in the bus phases. -/
theorem busPhases_write (h : inp.awready = false) : s.bus.writeReq.Same (busPhases inp s).bus.writeReq := by
  have hshake : (handshakes inp s).bus.writeReq = s.bus.writeReq := by
    unfold handshakes awHandshake
    rw [h, Bool.and_false, if_neg Bool.false_ne_true]
    exact arHandshake_write ..
  rw [busPhases_eq, completeMmu_write, ← hshake, ← captureR_write inp (masterOutputs s.bus) (handshakes inp s)]
  exact (captureW_write inp _ _).trans (captureB_write inp _ _)

end BusPhases

/-! ### The stages -/

/-- Some slot's address is still to be accepted. -/
def Bus.asks (b : Bus) : Prop :=
  b.fetchReq.unissued = true ∨ b.loadReq.unissued = true ∨ b.mmuReq.unissued = true ∨
    (b.writeReq.active && !b.writeReq.issued) = true

theorem unissued_iff (q : ReadReq) : q.unissued = true ↔ q.active = true ∧ q.issued = false := by
  simp [ReadReq.unissued]

section Stages
variable {s : State}

/-- A Prepare stage whose walk waits for a PTE read under way changes no slot. -/
theorem stagePrepare_waits (hflag : s.flags.translationPending = true) (hbusy : s.hookBusy) (hwait : s.walkWaits) :
    (s.stage = .prepareFetch ∧ (stagePrepareFetch s).bus = s.bus) ∨
    (s.stage = .prepareData ∧ (stagePrepareData s).bus = s.bus) := by
  have hbusy1 : ({ s with flags.translationPending := false } : State).hookBusy := hbusy
  have hsame : s.sameForHook { s with flags.translationPending := false } := ⟨rfl, rfl, rfl, rfl⟩
  have walks {va : Word} {ty : Access} (h : (translateCycle s va ty).1 = .pending) :
      translateCycle { s with flags.translationPending := false } va ty =
        (.pending, { s with flags.translationPending := false }) :=
    Prod.ext ((translateCycle_busy_congr hbusy hbusy1 hsame va ty).trans h) (translateCycle_busy hbusy1 va ty)
  rcases hwait with ⟨hst, hp⟩ | ⟨hst, m, hm, hal, hp⟩
  · refine .inl ⟨hst, ?_⟩
    have hbegin : beginFetch s = s := if_pos hflag
    unfold stagePrepareFetch
    rw [hbegin]
    dsimp only
    rw [walks hp]
  · refine .inr ⟨hst, ?_⟩
    have hm1 : preDecodeWord { s with flags.translationPending := false } = some m :=
      (preDecodeWord_congr rfl rfl).trans hm
    unfold stagePrepareData
    dsimp only
    rw [hm1]
    dsimp only
    rw [if_neg (by simp [hal]), walks hp]

/-- A stage does not change the bus view while a slot's address is still to be accepted. -/
theorem stageTransition_asks (h : s.SlotsFollowStage) (hst : s.stage ≠ .halted) (ha : s.bus.asks) {t : State}
    (ht : stageTransition s = .next t) : t.bus = s.bus := by
  unfold stageTransition at ht
  rcases ha with hf | hl | hm | hw
  · obtain ⟨hactive, hissued⟩ := (unissued_iff _).1 hf
    rw [(h.fetch hactive).resolve_right hst] at ht
    obtain rfl := Host.Outcome.next.inj ht
    simp [stageWaitFetch, hissued]
  · obtain ⟨hactive, hissued⟩ := (unissued_iff _).1 hl
    obtain ⟨hstage, hk⟩ := (h.load hactive).resolve_right hst
    rw [hstage] at ht
    obtain rfl := Host.Outcome.next.inj ht
    unfold stageWaitData
    split
    · contradiction
    · rw [if_neg (by simp [hissued])]
  · obtain ⟨hactive, -⟩ := (unissued_iff _).1 hm
    obtain ⟨hflag, hbusy, hwait⟩ := h.mmu_waits hst hactive
    rcases stagePrepare_waits hflag hbusy hwait with ⟨hstage, hbus⟩ | ⟨hstage, hbus⟩ <;> rw [hstage] at ht <;>
      obtain rfl := Host.Outcome.next.inj ht <;> exact hbus
  · obtain ⟨hactive, hissued⟩ : s.bus.writeReq.active = true ∧ s.bus.writeReq.issued = false := by simpa using hw
    rcases h.write hactive with ⟨hstage, hk⟩ | hstage | hstage
    · rw [hstage] at ht
      obtain rfl := Host.Outcome.next.inj ht
      unfold stageWaitData
      rw [hk]
      dsimp only
      rw [if_neg (by simp [hissued])]
    · rw [hstage] at ht
      dsimp only at ht
      unfold stageWaitAmoWrite at ht
      rw [if_neg (by simp [hissued])] at ht
      obtain rfl := Host.Outcome.next.inj ht
      rfl
    · exact absurd hstage hst

end Stages

/-- What a tick that does not halt leaves of a request still to be accepted: the bus view of its bus phases. -/
theorem tick_asks {inp : AxiIn} {s t : State} (h : s.SlotsFollowStage) (ht : tick inp s = .next t)
    (hst : t.stage ≠ .halted) (ha : (busPhases inp s).bus.asks) : t.bus = (busPhases inp s).bus := by
  have hs : s.stage ≠ .halted := by
    intro hs
    rw [tick_halted inp hs] at ht
    cases ht
    exact hst hs
  obtain ⟨u, hu, rfl⟩ := (tick_eq_next_iff inp hs t).1 ht
  rw [endTick_stage] at hst
  have hstage : (busPhases inp s).stage ≠ .halted := by rwa [(busPhases_sameWalk inp s).stage]
  rw [(congrArg State.bus (endTick_frame _ u) :)]
  unfold advanceStage at hu
  split at hu
  next hlim =>
    cases hu
    unfold limitHalt at hlim
    split at hlim
    · cases hlim; exact absurd rfl hst
    · split at hlim <;> cases hlim
      exact absurd rfl hst
  next => exact stageTransition_asks (busPhases_slotsFollowStage inp h) hstage ha hu

/-- Settles O59: without its handshake a slot's request is the same after the bus phases, the stage that waits for it
changes nothing, and no other slot becomes active. -/
theorem requestsStayUntilAccepted : Obligations.RequestsStayUntilAccepted := by
  intro inp s t h ht hst
  obtain ⟨hfl, hfm, -, hlm, -, -⟩ := h.one
  obtain ⟨hfl', hfm', -, hlm', -, -⟩ := (slotsFollowStageKeptByTick inp s t h ht).one
  constructor
  · intro hvalid hready
    obtain ⟨hf, hl, hm⟩ := busPhases_reads inp s hready
    rcases unissued_of_arvalid hvalid with hq | hq | hq
    · have hq' := hf.unissued.trans hq
      rw [← tick_asks h ht hst (.inl hq')] at hf hq'
      exact (fetchReq_onAr hq).hold (fetchReq_onAr hq') hf
    · have hq' := hl.unissued.trans hq
      rw [← tick_asks h ht hst (.inr (.inl hq'))] at hl hq'
      exact (loadReq_onAr (fun ha => hfl ⟨ha, ((unissued_iff _).1 hq).1⟩) hq).hold
        (loadReq_onAr (fun ha => hfl' ⟨ha, ((unissued_iff _).1 hq').1⟩) hq') hl
    · have hm := hm ((unissued_iff _).1 hq).2
      have hq' := hm.unissued.trans hq
      rw [← tick_asks h ht hst (.inr (.inr (.inl hq')))] at hm hq'
      have hactive := ((unissued_iff _).1 hq).1
      have hactive' := ((unissued_iff _).1 hq').1
      exact (mmuReq_onAr (fun ha => hfm ⟨ha, hactive⟩) (fun ha => hlm ⟨ha, hactive⟩) hq).hold
        (mmuReq_onAr (fun ha => hfm' ⟨ha, hactive'⟩) (fun ha => hlm' ⟨ha, hactive'⟩) hq') hm
  · intro hvalid hready
    have hw := busPhases_write inp s hready
    have hq := awvalid_iff.1 hvalid
    have hq' : ((busPhases inp s).bus.writeReq.active && !(busPhases inp s).bus.writeReq.issued) = true := by
      rw [hw.active, hw.issued, hq]
    rw [← tick_asks h ht hst (.inr (.inr (.inr hq')))] at hw hq'
    exact (writeReq_onAw hq).hold (writeReq_onAw hq') hw

end Sys2Proof.Machine
end

section
/-! PROOFS. The families of spec/40_rv32i_integer.md and spec/41_control_transfer.md: the values of the integer rules as
arithmetic on the operands' numbers (R200-R222), and the transfers of control (R250-R259). -/

namespace Sys2Proof.Machine

/-! ## Operands as numbers (R145, R222) -/

theorem immUpper_eq_ofNat (imm : BitVec 20) : immUpper imm = BitVec.ofNat 32 (imm.toNat * 2 ^ 12) := by
  apply BitVec.eq_of_toNat_eq
  simp only [immUpper, BitVec.toNat_shiftLeft, BitVec.toNat_setWidth, BitVec.toNat_ofNat, Nat.shiftLeft_eq]
  omega

theorem shiftAmount_eq_mod (v : Word) : shiftAmount v = v.toNat % 32 := by
  simp [shiftAmount, BitVec.extractLsb'_toNat]

theorem boolWord_lessSigned (a b : Word) : boolWord (lessSigned a b) = if a.toInt < b.toInt then 1#32 else 0#32 := by
  simp [boolWord, lessSigned]

theorem boolWord_lessUnsigned (a b : Word) :
    boolWord (lessUnsigned a b) = if a.toNat < b.toNat then 1#32 else 0#32 := by
  simp [boolWord, lessUnsigned]

theorem toInt_imm12 (imm : BitVec 12) : (imm12 imm).toInt = imm.toInt :=
  BitVec.toInt_signExtend_of_le (by decide)

/-! ## Shifts as arithmetic (R208-R210, R213, R217, R218) -/

theorem shiftLeft_eq_ofNat (v : Word) (n : Nat) : v <<< n = BitVec.ofNat 32 (v.toNat * 2 ^ n) := by
  apply BitVec.eq_of_toNat_eq
  rw [BitVec.toNat_shiftLeft, BitVec.toNat_ofNat, Nat.shiftLeft_eq]

theorem ushiftRight_eq_ofNat (v : Word) (n : Nat) : v >>> n = BitVec.ofNat 32 (v.toNat / 2 ^ n) := by
  apply BitVec.eq_of_toNat_eq
  rw [BitVec.toNat_ushiftRight, BitVec.toNat_ofNat, Nat.shiftRight_eq_div_pow,
    Nat.mod_eq_of_lt (Nat.lt_of_le_of_lt (Nat.div_le_self ..) v.isLt)]

theorem sshiftRight_eq_ofInt (v : Word) (n : Nat) : v.sshiftRight n = BitVec.ofInt 32 (v.toInt / 2 ^ n) := by
  rw [BitVec.sshiftRight, Int.shiftRight_eq_div_pow]
  norm_cast

/-- Settles O15: each meaning is `writeRd` with the value of its rule. -/
theorem immediateResults : Obligations.ImmediateResults := fun s rd rs1 imm20 imm shamt =>
  ⟨completesWriting_of_exec rfl (immUpper_eq_ofNat imm20),
    completesWriting_of_exec rfl (congrArg (s.pc + ·) (immUpper_eq_ofNat imm20)),
    completesWriting_of_exec rfl rfl,
    completesWriting_of_exec rfl (by rw [boolWord_lessSigned, toInt_imm12]),
    completesWriting_of_exec rfl (boolWord_lessUnsigned ..),
    completesWriting_of_exec rfl rfl,
    completesWriting_of_exec rfl rfl,
    completesWriting_of_exec rfl rfl,
    completesWriting_of_exec rfl (shiftLeft_eq_ofNat ..),
    completesWriting_of_exec rfl (ushiftRight_eq_ofNat ..),
    completesWriting_of_exec rfl (sshiftRight_eq_ofInt ..)⟩

/-- Settles O16: each meaning is `writeRd` with the value of its rule, a shift by the low five bits of x[rs2]. -/
theorem registerResults : Obligations.RegisterResults := fun s rd rs1 rs2 =>
  ⟨completesWriting_of_exec rfl rfl,
    completesWriting_of_exec rfl rfl,
    completesWriting_of_exec rfl (by rw [shiftAmount_eq_mod, shiftLeft_eq_ofNat]),
    completesWriting_of_exec rfl (boolWord_lessSigned ..),
    completesWriting_of_exec rfl (boolWord_lessUnsigned ..),
    completesWriting_of_exec rfl rfl,
    completesWriting_of_exec rfl (by rw [shiftAmount_eq_mod, ushiftRight_eq_ofNat]),
    completesWriting_of_exec rfl (by rw [shiftAmount_eq_mod, sshiftRight_eq_ofInt]),
    completesWriting_of_exec rfl rfl,
    completesWriting_of_exec rfl rfl⟩

/-! ## Transfers of control (R250-R259) -/

theorem targetMisaligned_eq_false_iff (t : Word) : targetMisaligned t = false ↔ t.toNat % 4 = 0 := by
  simp only [targetMisaligned, bne_eq_false_iff_eq]
  constructor
  · intro h
    have := congrArg BitVec.toNat h
    simpa [BitVec.extractLsb'_toNat] using this
  · intro h
    apply BitVec.eq_of_toNat_eq
    simpa [BitVec.extractLsb'_toNat] using h

theorem targetMisaligned_eq_true_iff (t : Word) : targetMisaligned t = true ↔ t.extractLsb' 0 2 ≠ 0#2 := by
  simp [targetMisaligned]

/-- JALR clears bit 0, so its target is misaligned iff bit 1 is set (R251). -/
theorem targetMisaligned_jalrTarget (s : State) (rs1 : Reg) (imm : BitVec 12) :
    targetMisaligned (jalrTarget s rs1 imm) = (s.reg rs1 + imm.signExtend 32).getLsbD 1 := by
  have hlow (v : Word) : targetMisaligned (v &&& 0xFFFFFFFE#32) = v.getLsbD 1 := by
    have hbits : (v &&& 0xFFFFFFFE#32).extractLsb' 0 2 = v.extractLsb' 0 2 &&& 2#2 := by
      rw [BitVec.extractLsb'_and]; rfl
    have hbit : v.getLsbD 1 = (v.extractLsb' 0 2).getLsbD 1 := by simp
    rw [targetMisaligned, hbits, hbit]
    generalize v.extractLsb' 0 2 = x
    revert x; decide
  exact hlow _

/-- An aligned jump: the link register written, pc at the target, and nothing else (R259). -/
theorem transferTo_setReg {s : State} {t : Word} (rd : Reg) (v : Word) (h : targetMisaligned t = false) :
    s.regsAfter (transferTo t (s.setReg rd v) s) rd v ∧ (transferTo t (s.setReg rd v) s).pc = t ∧
      s.sameButRegsPc (transferTo t (s.setReg rd v) s) := by
  rw [transferTo_aligned _ _ h]
  exact ⟨fun q => reg_setReg s rd q v, rfl,
    (congrArg (fun u : State => { u with pc := s.pc }) (setReg_sameButRegs s rd v) :)⟩

/-- Settles O20: an aligned target is reached with the link register written. -/
theorem jumpsLinkAndTransfer : Obligations.JumpsLinkAndTransfer := by
  constructor
  · intro s rd off hal
    exact ⟨_, rfl, transferTo_setReg rd _ ((targetMisaligned_eq_false_iff _).2 hal)⟩
  · intro s rd rs1 imm hbit
    exact ⟨_, rfl, transferTo_setReg rd _ ((targetMisaligned_jalrTarget s rs1 imm).trans hbit)⟩

/-! ### The branches (R252-R257) -/

/-- The conditions of the six branches. -/
def branchCondition (s : State) (rs1 rs2 : Reg) (off : BitVec 13) : List (Instr × Bool) :=
  [(.beq rs1 rs2 off, decide (s.reg rs1 = s.reg rs2)), (.bne rs1 rs2 off, decide (s.reg rs1 ≠ s.reg rs2)),
    (.blt rs1 rs2 off, decide ((s.reg rs1).toInt < (s.reg rs2).toInt)),
    (.bge rs1 rs2 off, decide ((s.reg rs1).toInt ≥ (s.reg rs2).toInt)),
    (.bltu rs1 rs2 off, decide ((s.reg rs1).toNat < (s.reg rs2).toNat)),
    (.bgeu rs1 rs2 off, decide ((s.reg rs1).toNat ≥ (s.reg rs2).toNat))]

/-- Each branch is the common operation on its condition. -/
theorem exec_branch {s : State} {rs1 rs2 : Reg} {off : BitVec 13} {i : Instr} {b : Bool}
    (h : (i, b) ∈ branchCondition s rs1 rs2 off) :
    exec i s = .next (branch b (s.pc + off.signExtend 32) s) := by
  have run {c : Bool} (hc : b = c) : Host.Outcome.next (branch c (s.pc + off.signExtend 32) s) =
      (.next (branch b (s.pc + off.signExtend 32) s) : Result) := by rw [hc]
  simp only [branchCondition, List.mem_cons, Prod.mk.injEq, List.not_mem_nil, or_false] at h
  rcases h with ⟨rfl, hb⟩ | ⟨rfl, hb⟩ | ⟨rfl, hb⟩ | ⟨rfl, hb⟩ | ⟨rfl, hb⟩ | ⟨rfl, hb⟩
  · exact run (hb.trans (beq_eq_decide ..).symm)
  · exact run (hb.trans (Bool.eq_iff_iff.2 (by simp)))
  · exact run hb
  · exact run (hb.trans (Bool.eq_iff_iff.2 (by simp [lessSigned])))
  · exact run hb
  · exact run (hb.trans (Bool.eq_iff_iff.2 (by simp [lessUnsigned])))

/-- Settles O21: a branch is the common operation on its condition, which goes to the target or to pc + 4. -/
theorem branchesFollowTheirCondition : Obligations.BranchesFollowTheirCondition := by
  intro s rs1 rs2 off i cond hi
  obtain ⟨b, hb, hcond⟩ : ∃ b, (i, b) ∈ branchCondition s rs1 rs2 off ∧ (b = true ↔ cond) := by
    simp only [List.mem_cons, Prod.mk.injEq, List.not_mem_nil, or_false] at hi
    rcases hi with ⟨rfl, rfl⟩ | ⟨rfl, rfl⟩ | ⟨rfl, rfl⟩ | ⟨rfl, rfl⟩ | ⟨rfl, rfl⟩ | ⟨rfl, rfl⟩ <;>
      exact ⟨_, by simp [branchCondition], decide_eq_true_iff⟩
  rw [exec_branch hb]
  constructor
  · intro hc hal
    rw [hcond.2 hc, branch_taken_aligned _ ((targetMisaligned_eq_false_iff _).2 hal)]
    rfl
  · intro hc
    rw [Bool.eq_false_iff.2 fun h => hc (hcond.1 h), branch_notTaken]
    rfl

/-- Settles O22: a misaligned target of a jump or a taken branch is the exception's trap value. -/
theorem misalignedTargetsTrap : Obligations.MisalignedTargetsTrap := by
  intro s rd rs1 rs2 joff imm off
  refine ⟨fun hal => ?_, fun hbit => ?_, fun i taken hi => ⟨?_, ?_⟩⟩
  · have hrun := transferTo_misaligned s (s.setReg rd (s.pc + 4#32)) ((targetMisaligned_eq_true_iff _).2 hal)
    exact ⟨_, congrArg Host.Outcome.next hrun, raise_tookException _ _ rfl rfl rfl, raise_sameButTrap _ _⟩
  · have hrun := transferTo_misaligned s (s.setReg rd (s.pc + 4#32))
      ((targetMisaligned_jalrTarget s rs1 imm).trans hbit)
    exact ⟨_, congrArg Host.Outcome.next hrun, raise_tookException _ _ rfl rfl rfl, raise_sameButTrap _ _⟩
  · rintro rfl hal
    have hrun := branch_taken_misaligned s ((targetMisaligned_eq_true_iff _).2 hal)
    exact ⟨_, (exec_branch hi).trans (congrArg Host.Outcome.next hrun), raise_tookException _ _ rfl rfl rfl,
      raise_sameButTrap _ _⟩
  · rintro rfl
    exact ⟨_, exec_branch hi, rfl, rfl, rfl, rfl⟩

end Sys2Proof.Machine
end

section
/-! PROOFS. The families of spec/45_zicsr.md and spec/46_system_privileged.md: what each CSR number reads and writes
(R30-R34), the CSR instructions (R320-R327), and the system and privileged forms (R340-R347). -/

namespace Sys2Proof.Machine

/-! ## System instructions (R340-R347) -/

/-- An exception raised in `s` itself. -/
theorem exec_raise {i : Instr} {s : State} {e : Exc} {v : Word} (h : exec i s = .next (raise e v s)) :
    ∃ t, exec i s = .next t ∧ s.tookException t e v ∧ s.sameButTrap t :=
  ⟨_, h, raise_tookException e v rfl rfl rfl, raise_sameButTrap e v⟩

/-- Settles O38: ECALL raises the exception of the mode. -/
theorem ecallTakesTheModesCause : Obligations.EcallTakesTheModesCause := fun s =>
  exec_raise (s := s) (e := ecallCause s.priv) rfl

/-- Settles O39: each meaning is the update its rule names. -/
theorem fencesAndWfiAdvanceEbreakSetsSimEnd : Obligations.FencesAndWfiAdvanceEbreakSetsSimEnd :=
  fun _ _ _ _ _ _ _ => ⟨rfl, rfl, rfl, rfl⟩

/-- Settles O41: below its mode each form raises the illegal-instruction exception. -/
theorem privilegedFormsTrapBelow : Obligations.PrivilegedFormsTrapBelow := by
  rintro s rs1 rs2 i (⟨rfl, hp⟩ | ⟨rfl, hp⟩ | ⟨rfl, hp⟩)
  · exact exec_raise (congrArg Host.Outcome.next (if_neg hp))
  · exact exec_raise (congrArg Host.Outcome.next (if_pos hp))
  · exact exec_raise (congrArg Host.Outcome.next (if_pos hp))

/-! ### MRET and SRET (R344, R345) -/

theorem getLsbD_mstatusAfterSret (w : Word) (k : Nat) :
    (mstatusAfterSret w).getLsbD k =
      if k = 1 then w.getLsbD 5 else if k = 5 then true else if k = 8 ∨ k = 17 then false else w.getLsbD k := by
  unfold mstatusAfterSret sieBit spieBit sppBit mprvBit
  rw [getLsbD_setBit _ _ _ _ (by decide), getLsbD_setBit _ _ _ _ (by decide), getLsbD_setBit _ _ _ _ (by decide),
    getLsbD_setBit _ _ _ _ (by decide)]
  grind

theorem Priv.toBits_ofBits {b : BitVec 2} (h : b ≠ 2#2) : (Priv.ofBits b).toBits = b := by
  revert b; decide

theorem Priv.ofBits_eq_m_iff (b : BitVec 2) : Priv.ofBits b = .m ↔ b = 3#2 := by
  revert b; decide

theorem getLsbD_mstatusAfterMret (w : Word) (k : Nat) :
    (mstatusAfterMret w).getLsbD k =
      if k = 3 then w.getLsbD 7 else if k = 7 then true else if k = 11 ∨ k = 12 then false
      else if k = 17 then w.getLsbD 17 && w.extractLsb' 11 2 == 3#2 else w.getLsbD k := by
  have hret : (setMpp (setBit (setBit w mieBit (w.getLsbD mpieBit)) mpieBit true) 0#2).getLsbD k =
      if k = 3 then w.getLsbD 7 else if k = 7 then true else if k = 11 ∨ k = 12 then false else w.getLsbD k := by
    unfold mieBit mpieBit
    rw [getLsbD_setMpp, getLsbD_setBit _ _ _ _ (by decide), getLsbD_setBit _ _ _ _ (by decide)]
    simp
    grind
  unfold mstatusAfterMret mppOf
  dsimp only
  by_cases hm : w.extractLsb' 11 2 = 3#2
  · rw [if_pos ((Priv.ofBits_eq_m_iff _).2 hm), hret, hm]
    grind
  · rw [if_neg (fun h => hm ((Priv.ofBits_eq_m_iff _).1 h)), getLsbD_setBit _ _ _ _ (by decide), hret]
    simp only [mprvBit, beq_false_of_ne hm]
    grind

/-- Settles O40: each return is one record update, its `mstatus` bit by bit. -/
theorem mretAndSretRestore : Obligations.MretAndSretRestore := by
  constructor
  · intro s hp hlegal
    exact ⟨returnFromM s, congrArg Host.Outcome.next (if_pos hp), Priv.toBits_ofBits hlegal.mpp, rfl,
      fun k _ => getLsbD_mstatusAfterMret _ k, rfl⟩
  · intro s hp
    exact ⟨returnFromS s, congrArg Host.Outcome.next (if_neg hp), rfl, rfl,
      fun k _ => getLsbD_mstatusAfterSret _ k, rfl⟩

/-! ## CSR instructions (R320-R327) -/

/-- Each form is the common operation; it writes when R326 says so, the value of its rule. -/
theorem exec_csrForm {s : State} {rd rs1 : Reg} {uimm : BitVec 5} {n : BitVec 12} {old new : Word} {i : Instr}
    {writes : Prop} (h : (i, writes, new) ∈ csrForms rd rs1 uimm n s old) :
    ∃ (w : Bool) (f : Word → Word), exec i s = .next (csrOp n rd w f s) ∧ (w = true ↔ writes) ∧ f old = new := by
  simp only [csrForms, List.mem_cons, Prod.mk.injEq, List.not_mem_nil, or_false] at h
  rcases h with ⟨rfl, rfl, rfl⟩ | ⟨rfl, rfl, rfl⟩ | ⟨rfl, rfl, rfl⟩ | ⟨rfl, rfl, rfl⟩ | ⟨rfl, rfl, rfl⟩ |
    ⟨rfl, rfl, rfl⟩
  · exact ⟨true, _, rfl, by simp, rfl⟩
  · exact ⟨rs1 != 0#5, _, rfl, bne_iff_ne, rfl⟩
  · exact ⟨rs1 != 0#5, _, rfl, bne_iff_ne, rfl⟩
  · exact ⟨true, _, rfl, by simp, rfl⟩
  · exact ⟨uimm != 0#5, _, rfl, bne_iff_ne, rfl⟩
  · exact ⟨uimm != 0#5, _, rfl, bne_iff_ne, rfl⟩

section Access
variable {s : State} {n : BitVec 12} {w : Bool} {writes : Prop} (hw : w = true ↔ writes)
include hw

/-- The access check of R32, as the model makes it. -/
theorem csrAccess_check :
    (csrPrivOk n s.priv && !(w && csrReadOnly n)) = true ↔
      (n.extractLsb' 8 2).toNat ≤ s.priv.toBits.toNat ∧ ¬(writes ∧ n.extractLsb' 10 2 = 3#2) := by
  rw [← hw]
  cases w <;> simp [csrPrivOk, csrReadOnly]

theorem csrAccess_of_allowed (h : csrAllowed n writes s) : csrAccess n w s.priv = csrOfNumber n := by
  obtain ⟨-, hpriv, hro⟩ := h
  exact if_pos ((csrAccess_check hw).2 ⟨hpriv, hro⟩)

theorem csrAccess_of_not_allowed (h : ¬csrAllowed n writes s) : csrAccess n w s.priv = none := by
  unfold csrAccess
  split
  next hc =>
    obtain ⟨hpriv, hro⟩ := (csrAccess_check hw).1 hc
    exact Option.not_isSome_iff_eq_none.1 fun hn => h ⟨hn, hpriv, hro⟩
  next => rfl

end Access

/-- Settles O35: an access that R32 does not allow is the illegal branch of the common operation. -/
theorem illegalCsrAccessTraps : Obligations.IllegalCsrAccessTraps := by
  intro s rd rs1 uimm n old i writes new hi hna
  obtain ⟨w, f, hexec, hw, -⟩ := exec_csrForm hi
  exact exec_raise (hexec.trans (congrArg Host.Outcome.next (csrOp_illegal s (csrAccess_of_not_allowed hw hna))))

/-! ### What the numbers name and read (R31, R33) -/

theorem csrOfNumber_isSome_iff (s : State) (n : BitVec 12) :
    (csrOfNumber n).isSome = true ↔ ∃ v, (n, v) ∈ csrValues s := by
  constructor
  · intro h
    unfold csrOfNumber at h
    split at h
    case h_24 => cases h
    all_goals simp [csrValues]
  · rintro ⟨v, hv⟩
    simp only [csrValues, List.cons_append, List.nil_append, List.mem_cons, Prod.mk.injEq, List.not_mem_nil,
      or_false] at hv
    rcases hv with ⟨rfl, -⟩ | ⟨rfl, -⟩ | ⟨rfl, -⟩ | ⟨rfl, -⟩ | ⟨rfl, -⟩ | ⟨rfl, -⟩ | ⟨rfl, -⟩ | ⟨rfl, -⟩ | ⟨rfl, -⟩ |
      ⟨rfl, -⟩ | ⟨rfl, -⟩ | ⟨rfl, -⟩ | ⟨rfl, -⟩ | ⟨rfl, -⟩ | ⟨rfl, -⟩ | ⟨rfl, -⟩ | ⟨rfl, -⟩ | ⟨rfl, -⟩ | ⟨rfl, -⟩ |
      ⟨rfl, -⟩ | ⟨rfl, -⟩ | ⟨rfl, -⟩ | ⟨rfl, -⟩ <;> rfl

/-- A read gives the value of R33, and draws only for the time source. -/
theorem csrRead_eq {s : State} {n : BitVec 12} {c : Csr} {v : Word} (hc : csrOfNumber n = some c)
    (hv : (n, v) ∈ csrValues s) :
    csrRead c s = (v, { s with draws := if n = 0xC01#12 ∨ n = 0xC81#12 then s.draws + 1 else s.draws }) := by
  simp only [csrValues, List.cons_append, List.nil_append, List.mem_cons, Prod.mk.injEq, List.not_mem_nil,
    or_false] at hv
  rcases hv with ⟨rfl, rfl⟩ | ⟨rfl, rfl⟩ | ⟨rfl, rfl⟩ | ⟨rfl, rfl⟩ | ⟨rfl, rfl⟩ | ⟨rfl, rfl⟩ | ⟨rfl, rfl⟩ |
    ⟨rfl, rfl⟩ | ⟨rfl, rfl⟩ | ⟨rfl, rfl⟩ | ⟨rfl, rfl⟩ | ⟨rfl, rfl⟩ | ⟨rfl, rfl⟩ | ⟨rfl, rfl⟩ | ⟨rfl, rfl⟩ |
    ⟨rfl, rfl⟩ | ⟨rfl, rfl⟩ | ⟨rfl, rfl⟩ | ⟨rfl, rfl⟩ | ⟨rfl, rfl⟩ | ⟨rfl, rfl⟩ | ⟨rfl, rfl⟩ | ⟨rfl, rfl⟩ <;>
    (obtain rfl := Option.some.inj hc; rfl)

/-! ### What a write leaves (R34) -/

/-- The count of draws does not matter to a write. -/
theorem csrWrite_draws (s : State) (c : Csr) (v : Word) (d : Nat) :
    csrWrite c v { s with draws := d } = { csrWrite c v s with draws := d } := by
  cases c <;> rfl

/-- A CSR instruction that is allowed: the old value into rd, and a write of the new one, if the form writes. -/
theorem csrOp_allowed {s : State} {n : BitVec 12} {c : Csr} {v : Word} {w : Bool} {writes : Prop} (rd : Reg)
    (f : Word → Word) (hw : w = true ↔ writes) (hc : csrOfNumber n = some c) (hv : (n, v) ∈ csrValues s)
    (ha : csrAllowed n writes s) :
    csrOp n rd w f s =
      { { (if w then csrWrite c (f v) s else s) with
          draws := if n = 0xC01#12 ∨ n = 0xC81#12 then s.draws + 1 else s.draws }.writeRd rd v with
        flags.isCsr := true } := by
  rw [csrOp_legal s ((csrAccess_of_allowed hw ha).trans hc), csrRead_eq hc hv]
  cases w with
  | false => rfl
  | true => simp only [if_true, csrWrite_draws]

/-- Settles O34: the 23 numbers one by one, and the common operation's legal branch. -/
theorem csrInstructionsReadAndWrite : Obligations.CsrInstructionsReadAndWrite := by
  refine ⟨csrOfNumber_isSome_iff, ?_⟩
  intro s rd rs1 uimm n c i writes old new hc hv hi ha
  obtain ⟨w, f, hexec, hw, rfl⟩ := exec_csrForm hi
  rw [csrOp_allowed rd f hw hc hv ha] at hexec
  generalize hd : (if n = 0xC01#12 ∨ n = 0xC81#12 then s.draws + 1 else s.draws) = d at hexec ⊢
  generalize hu : (if w = true then csrWrite c (f old) s else s) = u at hexec
  have hframe : { u with csr := s.csr, ptw := s.ptw } = s := by
    rw [← hu]
    split
    · exact csrWrite_frame s c (f old)
    · rfl
  have hreg (q : Reg) : u.reg q = s.reg q := (congrArg (fun r : State => r.reg q) hframe :)
  have hpc : u.pc = s.pc := (congrArg State.pc hframe :)
  refine ⟨_, hexec, fun q => ?_, ?_, rfl, by simp, fun h => ?_, fun h => ?_, ?_⟩
  · rw [← hreg q]
    exact reg_writeRd { u with draws := d } rd q old
  · rw [← hpc]
    exact writeRd_pc { u with draws := d } rd old
  · rw [if_pos (hw.2 h)] at hu
    simp [hu]
  · rw [if_neg (fun h' => h (hw.1 h'))] at hu
    simp [hu]
  · have hrd := congrArg (fun r : State =>
      { r with
        x := s.x, pc := s.pc, csr := s.csr, ptw := s.ptw, draws := s.draws
        flags := { r.flags with isCsr := s.flags.isCsr } }) (writeRd_sameButRegsPc { u with draws := d } rd old)
    exact hrd.trans (congrArg (fun r : State =>
      { r with x := s.x, pc := s.pc, draws := s.draws, flags := { r.flags with isCsr := s.flags.isCsr } }) hframe)

/-! ### CSRRW from M-mode (R34) -/

/-- A write that reserves MPP leaves it as it was, as if its two bits were not in the mask (R34). -/
theorem mstatusWritten_eq (old v : Word) :
    mstatusWritten old v = mergeMasked old v (if v.extractLsb' 11 2 = 2#2 then 0xE01AA#32 else 0xE19AA#32) := by
  have hmask : ∀ k < 32, k ≠ 11 → k ≠ 12 → (0xE01AA#32).getLsbD k = (0xE19AA#32).getLsbD k := by decide
  unfold mstatusWritten mppOf
  dsimp only
  split
  · apply BitVec.eq_of_getLsbD_eq
    intro k hk
    rw [getLsbD_setMpp, getLsbD_mergeMasked _ _ _ hk, getLsbD_mergeMasked _ _ _ hk]
    split
    next h => subst h; simp
    next h1 =>
      split
      next h => subst h; simp
      next h2 => rw [hmask k hk h1 h2]; rfl
  · rfl

/-- Settles O36: number by number, what the write under its mask is. -/
theorem csrWritesAreMasked : Obligations.CsrWritesAreMasked := by
  intro s rd rs1 n f hp hf
  obtain ⟨c, hc, hwrite⟩ : ∃ c, csrAccess n true .m = some c ∧ ∀ v u, (csrWrite c v u).csr = f v u.csr := by
    simp only [List.mem_cons, Prod.mk.injEq, List.not_mem_nil, or_false] at hf
    rcases hf with ⟨rfl, rfl⟩ | ⟨rfl, rfl⟩ | ⟨rfl, rfl⟩ | ⟨rfl, rfl⟩ | ⟨rfl, rfl⟩ | ⟨rfl, rfl⟩ | ⟨rfl, rfl⟩ |
      ⟨rfl, rfl⟩ | ⟨rfl, rfl⟩ | ⟨rfl, rfl⟩ | ⟨rfl, rfl⟩ | ⟨rfl, rfl⟩ | ⟨rfl, rfl⟩ | ⟨rfl, rfl⟩ | ⟨rfl, rfl⟩ |
      ⟨rfl, rfl⟩ | ⟨rfl, rfl⟩ | ⟨rfl, rfl⟩ | ⟨rfl, rfl⟩ | ⟨rfl, rfl⟩
    on_goal 18 => exact ⟨.mstatus, rfl, fun v u => by simp only [csrWrite, mstatusWritten_eq, mergeMasked]⟩
    all_goals exact ⟨_, rfl, fun _ _ => rfl⟩
  refine ⟨_, congrArg Host.Outcome.next (csrOp_legal s (hp ▸ hc)), ?_⟩
  rw [if_pos rfl, ← hwrite]
  have hread : (csrRead c s).2 = { s with draws := (csrRead c s).2.draws } := by cases c <;> rfl
  rw [hread, csrWrite_draws]
  simp

/-! ### Flushing the PTW cache (R130, R347) -/

/-- Settles O37: a flush leaves no entry that is found, and nothing after it fills one. -/
theorem sfenceAndSatpFlush : Obligations.SfenceAndSatpFlush := by
  intro s rs1 rs2 rd uimm hp
  refine ⟨⟨_, congrArg Host.Outcome.next (if_neg hp), ptwLookup_ptwFlush s, rfl, rfl⟩, ?_⟩
  intro i writes new hi hwrites
  have hallowed : csrAllowed 0x180#12 writes s := by
    refine ⟨rfl, ?_, fun h => absurd h.2 (by decide)⟩
    cases hs : s.priv with
    | u => exact absurd hs hp
    | s => decide
    | m => decide
  obtain ⟨t, hexec, -, -, -, -, hwrite, -, -⟩ := csrInstructionsReadAndWrite.2 s rd rs1 uimm 0x180#12 .satp i writes
    s.csr.satp new rfl (by simp [csrValues]) hi hallowed
  obtain ⟨hcsr, hptw⟩ := hwrite hwrites
  refine ⟨t, hexec, fun pa => ?_, by rw [hcsr]; rfl⟩
  have hlookup : t.ptwLookup pa = (csrWrite .satp new s).ptwLookup pa := by simp [State.ptwLookup, hptw]
  rw [hlookup]
  exact ptwLookup_ptwFlush { s with csr.satp := new } pa

end Sys2Proof.Machine
end

section
/-! PROOFS. The families of spec/42_load_store.md, spec/44_a_extension.md and spec/20_memory.md: loads and stores read and
write the bytes at the translated address, LR.W, SC.W and the AMOs read, reserve and modify the word there, and an access
that fails takes the exception of its type. -/

namespace Sys2Proof.Machine

/-! ## What a data access leaves alone -/

namespace State.sameButAccess
variable {s t u : State}

theorem trans (h : s.sameButAccess t) (h' : t.sameButAccess u) : s.sameButAccess u :=
  Eq.trans (congrArg (fun v : State => { v with
    x := s.x, pc := s.pc, res := s.res, slave := { v.slave with mem := s.slave.mem }, uartOut := s.uartOut
    ptw := s.ptw, mirror := s.mirror, memop := s.memop, latch := s.latch
    ctl := { v.ctl with simTime := s.ctl.simTime }
    flags := { v.flags with
      pageFaultLoad := s.flags.pageFaultLoad, pageFaultStore := s.flags.pageFaultStore
      accessFaultLoad := s.flags.accessFaultLoad, accessFaultStore := s.flags.accessFaultStore } }) h' :) h

theorem writeRd (h : s.sameButAccess t) (rd : Reg) (v : Word) : s.sameButAccess (t.writeRd rd v) :=
  h.trans (congrArg (fun u : State => { u with
    x := t.x, pc := t.pc, res := t.res, slave := { u.slave with mem := t.slave.mem }, uartOut := t.uartOut
    ptw := t.ptw, mirror := t.mirror, memop := t.memop, latch := t.latch
    ctl := { u.ctl with simTime := t.ctl.simTime }
    flags := { u.flags with
      pageFaultLoad := t.flags.pageFaultLoad, pageFaultStore := t.flags.pageFaultStore
      accessFaultLoad := t.flags.accessFaultLoad, accessFaultStore := t.flags.accessFaultStore } })
    (writeRd_sameButRegsPc t rd v) :)

theorem advancePc (h : s.sameButAccess t) : s.sameButAccess t.advancePc := h.trans rfl

theorem fillLatch (h : s.sameButAccess t) (a d : Word) (strb : BitVec 4) : s.sameButAccess (t.fillLatch a d strb) :=
  h.trans rfl

theorem busWrite (h : s.sameButAccess t) (a d : Word) (strb : BitVec 4) :
    s.sameButAccess (Machine.busWrite a d strb t).2 := by
  refine h.trans ?_
  unfold Machine.busWrite
  dsimp only
  split <;> rfl

theorem readErr (h : s.sameButAccess t) : t.slave.readErr = s.slave.readErr :=
  (congrArg (fun u : State => u.slave.readErr) h :)

end State.sameButAccess

/-- A transfer changes the slave's bytes at most. -/
theorem dataPhase_slave_errors (s : State) (m : MemReq) :
    { (dataPhase m s).slave with mem := s.slave.mem } = s.slave := by
  by_cases hk : m.kind = .store
  · rcases dataPhase_cases s m with h | ⟨pa, h⟩ | h | h <;> rw [h]
    · simp
    · rw [(dataTransfer_write _ hk pa).2.2]
      split <;> simp
    · simp
    · simp
  · rw [(dataPhase_slave s hk).1]

theorem dataPhase_sameButAccess (s : State) {m : MemReq} (hty : m.type = .load ∨ m.type = .store) :
    s.sameButAccess (dataPhase m s) := by
  apply State.eq_of_fields
  case h5 => exact dataPhase_flags_frame s m hty
  case h14 => exact dataPhase_ctl s m
  case h17 => exact dataPhase_slave_errors s m
  all_goals simp

/-! ## The bytes an aligned access reads (R90, R278) -/

section Lanes
variable (m : Memory) (pa : Word)

theorem lanes_setWidth8 (w : Word) (k : Nat) : (w >>> (8 * k)).setWidth 8 = byteOfWord w k := by
  apply BitVec.eq_of_getLsbD_eq
  intro i hi
  simp [byteOfWord, hi]

theorem lanes_setWidth16 (w : Word) (k : Nat) :
    (w >>> (8 * k)).setWidth 16 = byteOfWord w (k + 1) ++ byteOfWord w k := by
  apply BitVec.eq_of_getLsbD_eq
  intro i hi
  simp only [byteOfWord, BitVec.getLsbD_setWidth, BitVec.getLsbD_ushiftRight, BitVec.getLsbD_append,
    BitVec.getLsbD_extractLsb', hi, decide_true, Bool.true_and]
  split
  · simp [*]
  · have e : 8 * (k + 1) + (i - 8) = 8 * k + i := by omega
    have h8 : i - 8 < 8 := by omega
    simp [e, h8]

theorem byteOfWord_readWord_lane {k : Nat} (h : pa.toNat % 4 + k < 4) :
    byteOfWord (m.readWord pa) (pa.toNat % 4 + k) = m.readByte (pa.toNat + k) := by
  rw [byteOfWord_readWord _ _ h, ← Nat.add_assoc, wordBase_add]

theorem lanes_byte : (m.readWord pa >>> (8 * (pa.toNat % 4))).setWidth 8 = m.readByte pa.toNat := by
  rw [lanes_setWidth8]
  exact byteOfWord_readWord_lane m pa (k := 0) (Nat.mod_lt _ (by decide))

theorem lanes_half (h : pa.toNat % 2 = 0) : (m.readWord pa >>> (8 * (pa.toNat % 4))).setWidth 16 =
    m.readByte (pa.toNat + 1) ++ m.readByte pa.toNat := by
  have h0 := byteOfWord_readWord_lane m pa (k := 0) (by omega)
  have h1 := byteOfWord_readWord_lane m pa (k := 1) (by omega)
  rw [lanes_setWidth16, h1]
  exact congrArg (m.readByte (pa.toNat + 1) ++ ·) h0

theorem readWord_aligned (h : pa.toNat % 4 = 0) : m.readWord pa =
    wordOfBytes (m.readByte pa.toNat) (m.readByte (pa.toNat + 1)) (m.readByte (pa.toNat + 2))
      (m.readByte (pa.toNat + 3)) := by
  have hbase : wordBase pa = pa.toNat := by unfold wordBase; omega
  rw [Memory.readWord, hbase]

end Lanes

/-! ## Loads (R270-R274) -/

section Loads
variable {s : State} {m : MemReq} {pa : Word}

/-- The state a load or LR.W's read leaves when it is answered without an error. -/
theorem loadFault_dataPhase (ha : m.va.toNat % m.size = 0) (hr : s.reaches m.va m.type pa) (hk : m.kind ≠ .store)
    (ho : s.readsOk pa) : loadFault (dataPhase m s) = none := by
  have hf := dataPhase_reaches_flags s ha hr (fun h => absurd h hk) (fun _ => ho)
  obtain ⟨haccess, hpage, -, -⟩ := dataStart_flags_data s
  exact loadFault_none _ (by rw [hf, haccess]) (by rw [hf, hpage])

theorem load_completes {i : Instr} {rd : Reg} {va v : Word} (hw : s.mirror.wf = true)
    (ha : m.va.toNat % m.size = 0) (hr : s.reaches m.va m.type pa) (hk : m.kind = .load) (hty : m.type = .load)
    (ho : s.readsOk pa) (hexec : exec i s = .next (loadBody va rd v (dataPhase m s))) :
    ∃ t, exec i s = .next t ∧ s.regsAfter t rd v ∧ t.pc = s.pc + 4#32 ∧ t.slave = s.slave ∧ t.res = s.res ∧
      t.uartOut = s.uartOut ∧ s.sameButAccess t ∧ s.mirrorFollows t := by
  have hk' : m.kind ≠ .store := by simp [hk]
  obtain ⟨-, -, hslave, huart, hmirror⟩ := dataPhase_reads s ha hr hw hk'
  rw [loadBody_ok _ (loadFault_dataPhase ha hr hk' ho)] at hexec
  refine ⟨_, hexec, fun q => ?_, ?_, by simp [hslave], by simp, by simp [huart],
    (dataPhase_sameButAccess s (.inl hty)).writeRd rd v, fun a => ?_⟩
  · rw [reg_writeRd, dataPhase_reg]
  · rw [writeRd_pc, dataPhase_pc]
  · simpa using hmirror a

end Loads

/-- Settles O23: the load's word is the slave's at the translated address, whose lanes are the bytes there. -/
theorem loadsReadBytes : Obligations.LoadsReadBytes := by
  intro s rd rs1 imm pa i n v hi hlegal ha hr ho
  simp only [List.mem_cons, Prod.mk.injEq, List.not_mem_nil, or_false] at hi
  have completes {k : Nat} (hk : n = k) {u : Word} (hu : u = v)
      (hexec : exec i s = .next (loadBody (effectiveAddress (dataPhase (loadReq k rs1 imm s) s) rs1 imm) rd u
        (dataPhase (loadReq k rs1 imm s) s))) :=
    load_completes (m := loadReq k rs1 imm s) hlegal.mirror (hk ▸ ha) hr rfl rfl ho (hu ▸ hexec)
  have hword (k : Nat) (hk : n = k) : operandWord (dataPhase (loadReq k rs1 imm s) s) = s.slave.mem.readWord pa ∧
      (dataPhase (loadReq k rs1 imm s) s).memop.paddr = pa := by
    obtain ⟨hw, hp, -⟩ := dataPhase_reads s (m := loadReq k rs1 imm s) (hk ▸ ha) hr hlegal.mirror (by simp [loadReq])
    exact ⟨hw, hp⟩
  have hlanes (k : Nat) (hk : n = k) : addressedLanes (dataPhase (loadReq k rs1 imm s) s) =
      s.slave.mem.readWord pa >>> (8 * (pa.toNat % 4)) := by
    rw [addressedLanes, (hword k hk).1, (hword k hk).2]
  have haligned (hn : n = 1 ∨ n = 2 ∨ n = 4) : pa.toNat % n = 0 := translate_aligned s hr.1 hn ha
  rcases hi with ⟨rfl, hn, rfl⟩ | ⟨rfl, hn, rfl⟩ | ⟨rfl, hn, rfl⟩ | ⟨rfl, hn, rfl⟩ | ⟨rfl, hn, rfl⟩
  · exact completes hn (by rw [loadedByte, hlanes 1 hn, lanes_byte, sext]) rfl
  · exact completes hn (by rw [loadedHalf, hlanes 2 hn, lanes_half _ _ (hn ▸ haligned (by simp [hn])), sext]) rfl
  · exact completes hn (by rw [(hword 4 hn).1, readWord_aligned _ _ (hn ▸ haligned (by simp [hn]))]) rfl
  · exact completes hn (by rw [loadedByte, hlanes 1 hn, lanes_byte, zext]) rfl
  · exact completes hn (by rw [loadedHalf, hlanes 2 hn, lanes_half _ _ (hn ▸ haligned (by simp [hn])), zext]) rfl

/-! ## Stores (R275-R277) -/

section Stores
variable {s : State} {m : MemReq} {pa : Word}

/-- A store's access that is answered without an error leaves no fault. -/
theorem storeFault_dataPhase_store (ha : m.va.toNat % m.size = 0) (hr : s.reaches m.va m.type pa)
    (hk : m.kind = .store) (ho : s.writesOk pa) : storeFault (dataPhase m s) = none := by
  have hf := dataPhase_reaches_flags s ha hr (fun _ => ho) (fun h => absurd hk h)
  obtain ⟨-, -, haccess, hpage⟩ := dataStart_flags_data s
  exact storeFault_none _ (by rw [hf, haccess]) (by rw [hf, hpage])

/-- What a store's access leaves in the slave and, alike, in the mirror. -/
theorem dataPhase_store_bytes (hl : s.Legal) (ha : m.va.toNat % m.size = 0) (hr : s.reaches m.va m.type pa)
    (hn : m.size = 1 ∨ m.size = 2 ∨ m.size = 4) (hk : m.kind = .store) (ho : s.writesOk pa) :
    (dataPhase m s).holdsBytes pa m.size m.data ∧ s.sameBytesOutside (dataPhase m s) pa m.size ∧
      s.mirrorFollows (dataPhase m s) := by
  have hbytes := dataPhase_stores s ha hr hn hk hl.slave ho
  refine ⟨fun k hk' => ?_, fun a hout => ?_, fun a => ?_⟩
  · rw [hbytes, if_pos ⟨by omega, by omega⟩, Nat.add_sub_cancel_left]
    rfl
  · rw [hbytes, if_neg (by exact hout)]
  · rw [hbytes, dataPhase_stores_mirror s ha hr hn hk hl.mirror]
    split
    · exact .inr rfl
    · have hwalk := translate_mirror_follows (dataStart s) m.va m.type hl.mirror a
      rw [translate_slave] at hwalk
      exact hwalk

end Stores

/-- The three stores, with their size. -/
theorem exec_store {s : State} {rs1 rs2 : Reg} {imm : BitVec 12} {i : Instr} {n : Nat}
    (hi : (i, n) ∈ [(Instr.sb rs1 rs2 imm, 1), (Instr.sh rs1 rs2 imm, 2), (Instr.sw rs1 rs2 imm, 4)]) :
    preDecode i s = some (storeReq n rs1 rs2 imm s) ∧ (n = 1 ∨ n = 2 ∨ n = 4) ∧
    exec i s = .next (storeBody (s.reg rs1 + imm.signExtend 32) n (s.reg rs2)
      (dataPhase (storeReq n rs1 rs2 imm s) s)) := by
  have body (k : Nat) : storeBody (effectiveAddress (dataPhase (storeReq k rs1 rs2 imm s) s) rs1 imm) k
      ((dataPhase (storeReq k rs1 rs2 imm s) s).reg rs2) (dataPhase (storeReq k rs1 rs2 imm s) s) =
      storeBody (s.reg rs1 + imm.signExtend 32) k (s.reg rs2) (dataPhase (storeReq k rs1 rs2 imm s) s) := by
    rw [effectiveAddress, dataPhase_reg, dataPhase_reg]
    rfl
  simp only [List.mem_cons, Prod.mk.injEq, List.not_mem_nil, or_false] at hi
  rcases hi with ⟨rfl, rfl⟩ | ⟨rfl, rfl⟩ | ⟨rfl, rfl⟩
  · exact ⟨rfl, .inl rfl, congrArg Host.Outcome.next (body 1)⟩
  · exact ⟨rfl, .inr (.inl rfl), congrArg Host.Outcome.next (body 2)⟩
  · exact ⟨rfl, .inr (.inr rfl), congrArg Host.Outcome.next (body 4)⟩

/-- Settles O24: the access writes the bytes, and the store's Execute part finds no fault. -/
theorem storesWriteBytes : Obligations.StoresWriteBytes := by
  intro s rs1 rs2 imm pa i n hi hl ha hr ho
  obtain ⟨-, hn, hexec⟩ := exec_store (s := s) hi
  obtain ⟨hholds, hout, hmirror⟩ := dataPhase_store_bytes (m := storeReq n rs1 rs2 imm s) hl ha hr hn rfl ho
  rw [storeBody_ok _ (storeFault_dataPhase_store ha hr rfl ho)] at hexec
  exact ⟨_, hexec, hholds, hout, fun q => dataPhase_reg s _ q, congrArg (· + 4#32) (dataPhase_pc s _),
    dataPhase_res s _, ((dataPhase_sameButAccess s (.inr rfl)).fillLatch ..).advancePc, hmirror⟩

/-- Settles O25: the access emits the character whatever the response, and the Execute part emits none. -/
theorem storesEmitUartCharacter : Obligations.StoresEmitUartCharacter := by
  intro s rs1 rs2 imm pa i n hi ha hr
  obtain ⟨-, hn, hexec⟩ := exec_store (s := s) hi
  have huart := dataPhase_stores_uart s (m := storeReq n rs1 rs2 imm s) ha hr hn rfl
  exact ⟨_, hexec, (congrArg State.uartOut (storeBody_frame _ _ _ _) :).trans huart⟩

/-- Settles O26: after the store the slave holds its four bytes, which the load reads. -/
theorem loadReturnsLastStore : Obligations.LoadReturnsLastStore := by
  intro s t rs1 rs2 rd rb imm imm' pa hrd hl ha hr hw ho ht ha' hr'
  obtain ⟨t', ht', hholds, -, -, -, -, haccess, -⟩ :=
    storesWriteBytes s rs1 rs2 imm pa (.sw rs1 rs2 imm) 4 (by simp) hl ha hr hw
  obtain rfl : t = t' := Host.Outcome.next.inj (ht.symm.trans ht')
  have ho' : t.readsOk pa := by rw [State.readsOk, haccess.readErr]; exact ho
  obtain ⟨u, hu, hregs, -⟩ := loadsReadBytes t rd rb imm' pa (.lw rd rb imm') 4
    (wordOfBytes (t.slave.mem.readByte pa.toNat) (t.slave.mem.readByte (pa.toNat + 1))
      (t.slave.mem.readByte (pa.toNat + 2)) (t.slave.mem.readByte (pa.toNat + 3)))
    (by simp) (exec_legal hl ht) ha' hr' ho'
  have hbyte (k : Nat) (hk : k < 4) : t.slave.mem.readByte (pa.toNat + k) = byteOfWord (s.reg rs2) k := hholds k hk
  refine ⟨u, hu, ?_⟩
  rw [hregs rd, if_pos ⟨rfl, hrd⟩, hbyte 1 (by decide), hbyte 2 (by decide), hbyte 3 (by decide)]
  exact (congrArg (wordOfBytes · _ _ _) (hbyte 0 (by decide))).trans (wordOfBytes_byteOfWord _)

/-! ## Accesses that fail after their address is found aligned (R119, R278-R280, R312, R506) -/

/-- The fault Execute finds, by the type of the access (R421, R505). -/
def accessFault (ty : Access) (s : State) : Option Exc := if ty = .load then loadFault s else storeFault s

theorem accessFault_setAccessFault (s : State) {ty : Access} (hty : ty = .load ∨ ty = .store) :
    accessFault ty (s.setAccessFault ty) = some (accessFaultOf ty) := by
  rcases hty with rfl | rfl <;> rfl

theorem accessFault_setPageFault (s : State) {ty : Access} (hty : ty = .load ∨ ty = .store)
    (hf : s.flags.accessFaultLoad = false ∧ s.flags.accessFaultStore = false) :
    accessFault ty (s.setPageFault ty) = some (pageFaultOf ty) := by
  rcases hty with rfl | rfl
  · simp [accessFault, loadFault, State.setPageFault, pageFaultOf, hf]
  · simp [accessFault, storeFault, State.setPageFault, pageFaultOf, hf]

theorem accessFault_congr {s t : State} (h : t.flags = s.flags) (ty : Access) : accessFault ty t = accessFault ty s := by
  simp only [accessFault, loadFault, storeFault, h]

section Fails
variable {i : Instr} {s : State} {m : MemReq}

/-- A memory instruction whose access leaves a fault, and the slave as it was, takes that exception. -/
theorem exec_accessFault {e : Exc} (hm : preDecode i s = some m) (hf : accessFault m.type (dataPhase m s) = some e)
    (hs : (dataPhase m s).slave = s.slave) :
    ∃ t, exec i s = .next t ∧ s.tookException t e m.va ∧ s.sameButFailedAccess t ∧
      t.uartOut = (dataPhase m s).uartOut ∧ t.mirror = (dataPhase m s).mirror := by
  obtain ⟨hty, -⟩ := preDecode_facts s hm
  refine ⟨_, exec_failedAccess s hm (fun h => ?_) (fun h => ?_),
    raise_tookException e m.va (dataPhase_pc s m) (dataPhase_priv s m) (dataPhase_csr s m),
    raise_dataPhase_sameButFailedAccess s e m.va hty hs, by simp [raise], by simp [raise]⟩
  · simpa [accessFault, h] using hf
  · simpa [accessFault, h] using hf

/-- The walk of a data access starts with no data-side fault flag set and leaves it so. -/
theorem translate_dataStart_accessFlags (va : Word) (ty : Access) :
    (translate (dataStart s) va ty).2.flags.accessFaultLoad = false ∧
      (translate (dataStart s) va ty).2.flags.accessFaultStore = false := by
  obtain ⟨hload, -, hstore, -⟩ := dataStart_flags_data s
  rw [translate_flags]
  exact ⟨hload, hstore⟩

end Fails

/-- Settles O28: each failure sets its flag on the state the walk left, whose slave and UART stream are the old ones. -/
theorem untranslatableAccessesTrap : Obligations.UntranslatableAccessesTrap := by
  intro i s m hm hva
  have ha : misaligned m.size m.va = false := by simp [misaligned, hva]
  obtain ⟨hty, -⟩ := preDecode_facts s hm
  have trap {e : Exc} (hf : accessFault m.type (dataPhase m s) = some e) (hs : (dataPhase m s).slave = s.slave)
      (hu : (dataPhase m s).uartOut = s.uartOut) : ∃ t, exec i s = .next t ∧ s.tookException t e m.va ∧
        s.sameButFailedAccess t ∧ t.uartOut = s.uartOut := by
    obtain ⟨t, hexec, htook, hframe, huart, -⟩ := exec_accessFault hm hf hs
    exact ⟨t, hexec, htook, hframe, huart.trans hu⟩
  have accessTrap (hd : dataPhase m s = (translate (dataStart s) m.va m.type).2.setAccessFault m.type) :=
    trap (e := accessFaultOf m.type) (by rw [hd, accessFault_setAccessFault _ hty]) (by simp [hd]) (by simp [hd])
  refine ⟨fun hpage => ?_, ?_⟩
  · have hd := dataPhase_pageFault s ha ((translate_dataStart s m.va m.type).trans hpage)
    exact trap (by rw [hd, accessFault_setPageFault _ hty (translate_dataStart_accessFlags ..)]) (by simp [hd])
      (by simp [hd])
  · rintro (hwalk | ⟨pa, hok, hbounds⟩)
    · exact accessTrap (dataPhase_walkFault s ha ((translate_dataStart s m.va m.type).trans hwalk))
    · exact accessTrap (dataPhase_outOfBounds s ha ((translate_dataStart s m.va m.type).trans hok) hbounds)

/-- Settles O29: the transfer's error sets the flag of its type; a store's bytes and character have gone out before. -/
theorem busErrorsTrap : Obligations.BusErrorsTrap := by
  intro i s m pa hm hva hr
  obtain ⟨hty, hstore, -, -, hn⟩ := preDecode_facts s hm
  have hd := dataPhase_reaches s hva hr
  have fault (herr : (transact m pa (translate (dataStart s) m.va m.type).2).1 = true) :
      accessFault m.type (dataPhase m s) = some (accessFaultOf m.type) := by
    rw [hd, accessFault_congr ((dataTransfer_flags ..).trans (if_pos herr)), accessFault_setAccessFault _ hty]
  refine ⟨fun hk herr => ?_, fun hk hw herr => ?_⟩
  · obtain ⟨hslave, huart⟩ := dataPhase_slave s hk
    obtain ⟨t, hexec, htook, hframe, hu, -⟩ :=
      exec_accessFault hm (fault (by simpa [transact_err, hk, State.readsOk] using herr)) hslave
    exact ⟨t, hexec, htook, hframe, hu.trans huart⟩
  · have hslave : (dataPhase m s).slave = s.slave := by
      have herr' : (translate (dataStart s) m.va m.type).2.slave.writeErr.contains (wordAddress pa) = true := by
        simpa [State.writesOk] using herr
      rw [hd, (dataTransfer_write _ hk pa).2.2, if_pos herr']
      simp
    obtain ⟨t, hexec, htook, hframe, hu, hmirror⟩ :=
      exec_accessFault hm (fault (by simpa [transact_err, hk, State.writesOk] using herr)) hslave
    refine ⟨t, hexec, ?_, hframe, hu.trans (dataPhase_stores_uart s hva hr hn hk), fun k hlt => ?_⟩
    · rwa [hstore hk] at htook
    · rw [hmirror, dataPhase_stores_mirror s hva hr hn hk hw, if_pos ⟨by omega, by omega⟩, Nat.add_sub_cancel_left]
      rfl

/-! ## LR.W, SC.W and the AMOs (R300-R311) -/

/-- Settles O30: the access reads the word, and Execute finds no fault. -/
theorem loadReservedReserves : Obligations.LoadReservedReserves := by
  intro s rd rs1 aq rl pa hl ha hr ho
  have hk : (lrReq rs1 s).kind ≠ .store := by simp [lrReq]
  obtain ⟨hword, hpaddr, hslave, huart, hmirror⟩ := dataPhase_reads s (m := lrReq rs1 s) ha hr hl.mirror hk
  have hbody := lrBody_ok (rd := rd) (rs1 := rs1) _ (loadFault_dataPhase (m := lrReq rs1 s) ha hr hk ho)
  rw [hword, hpaddr] at hbody
  have hframe : s.sameButAccess { dataPhase (lrReq rs1 s) s with res := { valid := true, addr := pa } } :=
    (dataPhase_sameButAccess s (.inl rfl)).trans rfl
  refine ⟨_, congrArg Host.Outcome.next hbody, fun q => ?_, by simp, by simp, by simp [hslave], by simp [huart],
    hframe.writeRd .., fun a => by simpa using hmirror a⟩
  rw [reg_writeRd]
  exact congrArg (if q = rd ∧ q ≠ 0#5 then _ else ·) (dataPhase_reg s _ q)

/-- A whole word's lanes and strobes (R410). -/
theorem laneData_word {pa : Word} (h : pa.toNat % 4 = 0) (v : Word) : laneData 4 v pa = v := by
  apply BitVec.eq_of_getLsbD_eq
  intro i hi
  have hmask : (BitVec.ofNat 32 (2 ^ (8 * 4) - 1)).getLsbD i = true := by
    rw [BitVec.getLsbD_ofNat, Nat.testBit_two_pow_sub_one]
    simp [hi]
  simp only [laneData, h, BitVec.getLsbD_shiftLeft, BitVec.getLsbD_and]
  simpa [hi] using fun _ => hmask

theorem laneStrobe_word {pa : Word} (h : pa.toNat % 4 = 0) : laneStrobe 4 pa = 0b1111#4 := by
  simp [laneStrobe, h]

section Commits
variable {s : State} {rs1 : Reg} {pa : Word} (hl : s.Legal) (ha : (s.reg rs1).toNat % 4 = 0)
  (hr : s.reaches (s.reg rs1) .store pa)
include hl ha hr

/-- The latch that Execute filled with a whole word is written: the slave and, alike, the mirror hold the word. -/
theorem amoCommit_fillLatch (res : Reservation) (d v : Word) (rd : Reg) (hw : s.writesOk pa) :
    ∃ t, amoCommit (({ dataPhase (amoReq rs1 s) s with res := res }.fillLatch pa d 0b1111#4).writeRd rd v) = .next t ∧
      s.regsAfter t rd v ∧ t.holdsBytes pa 4 d ∧ s.sameBytesOutside t pa 4 ∧ t.uartOut = s.uartAfter pa 4 d ∧
      t.res = res ∧ t.pc = s.pc + 4#32 ∧ s.sameButAccess t ∧ s.mirrorFollows t := by
  have hk : (amoReq rs1 s).kind ≠ .store := by simp [amoReq]
  obtain ⟨-, -, hslave, huart, hmirror⟩ := dataPhase_reads s (m := amoReq rs1 s) ha hr hl.mirror hk
  have hpa : pa.toNat % 4 = 0 := translate_aligned s hr.1 (by simp) ha
  have hframe : s.sameButAccess { dataPhase (amoReq rs1 s) s with res := res } :=
    (dataPhase_sameButAccess s (.inr rfl)).trans rfl
  have hmw := (State.MemoriesWf.dataPhase hl.memories (amoReq rs1 s)).mirror
  have hbytes (m : Memory) (h : m.wf = true) (a : Nat) : (m.writeLanes pa d 0b1111#4).readByte a =
      if pa.toNat ≤ a ∧ a < pa.toNat + 4 then byteOfWord d (a - pa.toNat) else m.readByte a := by
    have := Memory.readByte_writeAccess h d (n := 4) (by simp) hpa a
    rwa [laneData_word hpa, laneStrobe_word hpa] at this
  have huartByte := uartByte_access s.cfg (n := 4) (by simp) hpa d
  rw [laneData_word hpa, laneStrobe_word hpa] at huartByte
  have hok : s.slave.writeErr.contains (wordAddress pa) = false := hw
  refine ⟨_, amoCommit_write _ (by simp) (by
    rw [writeRd_slave, writeRd_latch, fillLatch_slave, hslave]; exact hok), fun q => ?_,
    fun k hk => ?_, fun a ha => ?_, ?_, by simp, by simp, ((hframe.fillLatch ..).writeRd ..).busWrite .., fun a => ?_⟩
  · rw [busWrite_reg, reg_writeRd, fillLatch_reg]
    exact congrArg (if q = rd ∧ q ≠ 0#5 then v else ·) (dataPhase_reg s _ q)
  all_goals simp only [busWrite_slave, busWrite_mirror, busWrite_uartOut, writeRd_slave, writeRd_mirror, writeRd_uartOut,
    writeRd_latch, writeRd_cfg, fillLatch_slave, fillLatch_mirror, fillLatch_uartOut, fillLatch_latch, fillLatch_cfg,
    dataPhase_cfg, hslave, huart, hok, Bool.false_eq_true, if_false, hbytes _ hl.slave, hbytes _ hmw]
  · rw [if_pos ⟨by omega, by omega⟩, Nat.add_sub_cancel_left]
    rfl
  · rw [if_neg (by exact ha)]
  · rw [huartByte, State.uartAfter]
    split <;> simp
  · split
    · exact .inr rfl
    · exact hslave ▸ hmirror a

/-- An AMO that is answered without an error puts the old word in `rd` and the computed one in memory. -/
theorem exec_amo {i : Instr} {f : Word → Word → Word} {rd rs2 : Reg} {new : Word} (ho : s.readsOk pa)
    (hw : s.writesOk pa) (hexec : exec i s = amoCommit (amoBody f rd rs1 rs2 (dataPhase (amoReq rs1 s) s)))
    (hnew : f (s.slave.mem.readWord pa) (s.reg rs2) = new) :
    ∃ t, exec i s = .next t ∧ s.regsAfter t rd (s.slave.mem.readWord pa) ∧ t.holdsBytes pa 4 new ∧
      s.sameBytesOutside t pa 4 ∧ t.uartOut = s.uartAfter pa 4 new ∧ t.res = s.res ∧ t.pc = s.pc + 4#32 ∧
      s.sameButAccess t ∧ s.mirrorFollows t := by
  obtain ⟨hword, -⟩ := dataPhase_reads s (m := amoReq rs1 s) ha hr hl.mirror (by simp [amoReq])
  rw [hexec, amoBody_ok _ (storeFault_dataPhase_amoReq ha hr ho), dataPhase_amoReq_paddr ha hr, hword, dataPhase_reg,
    hnew]
  obtain ⟨t, ht, hregs, hholds, hout, huart, hres, hrest⟩ :=
    amoCommit_fillLatch hl ha hr (dataPhase (amoReq rs1 s) s).res new (s.slave.mem.readWord pa) rd hw
  exact ⟨t, ht, hregs, hholds, hout, huart, hres.trans (dataPhase_res s _), hrest⟩

end Commits

/-- Settles O31: Execute compares the reservation with the address latched; only success fills the latch. -/
theorem storeConditionalOutcomes : Obligations.StoreConditionalOutcomes := by
  intro s rd rs1 rs2 aq rl pa hl ha hr ho
  have hpaddr := dataPhase_amoReq_paddr ha hr
  have hf := storeFault_dataPhase_amoReq ha hr ho
  have hiff : scSucceeds (dataPhase (amoReq rs1 s) s) = true ↔ s.res.valid = true ∧ s.res.addr = pa := by
    simp [scSucceeds, hpaddr]
  refine ⟨fun hheld hw => ?_, fun hheld => ?_⟩
  · have hbody := scBody_success (rd := rd) (rs1 := rs1) (rs2 := rs2) _ hf (hiff.mpr hheld)
    rw [hpaddr, dataPhase_reg] at hbody
    have hcommit := amoCommit_fillLatch hl ha hr { (dataPhase (amoReq rs1 s) s).res with valid := false }
      (s.reg rs2) 0#32 rd hw
    rw [← hbody, dataPhase_res] at hcommit
    exact hcommit
  · have hbody := scBody_failure (rd := rd) (rs1 := rs1) (rs2 := rs2) _ hf (by simpa using mt hiff.mp hheld)
    obtain ⟨-, -, hslave, huart, hmirror⟩ :=
      dataPhase_reads s (m := amoReq rs1 s) ha hr hl.mirror (by simp [amoReq])
    have hframe : s.sameButAccess
        { dataPhase (amoReq rs1 s) s with res := { (dataPhase (amoReq rs1 s) s).res with valid := false } } :=
      (dataPhase_sameButAccess s (.inr rfl)).trans rfl
    refine ⟨_, (congrArg amoCommit hbody).trans (amoCommit_clear _ (by simp)), fun q => ?_, by simp [hslave],
      by simp [huart], by simp, by simp, hframe.writeRd .., fun a => by simpa using hmirror a⟩
    rw [reg_writeRd]
    exact congrArg (if q = rd ∧ q ≠ 0#5 then _ else ·) (dataPhase_reg s _ q)

theorem minSigned_eq (a b : Word) : minSigned a b = BitVec.ofInt 32 (min a.toInt b.toInt) := by
  simp only [minSigned, lessSigned, decide_eq_true_eq]
  split
  · rw [min_eq_left (by omega), BitVec.ofInt_toInt]
  · rw [min_eq_right (by omega), BitVec.ofInt_toInt]

theorem maxSigned_eq (a b : Word) : maxSigned a b = BitVec.ofInt 32 (max a.toInt b.toInt) := by
  simp only [maxSigned, lessSigned, decide_eq_true_eq]
  split
  · rw [max_eq_left (by omega), BitVec.ofInt_toInt]
  · rw [max_eq_right (by omega), BitVec.ofInt_toInt]

theorem minUnsigned_eq (a b : Word) : minUnsigned a b = BitVec.ofNat 32 (min a.toNat b.toNat) := by
  simp only [minUnsigned, lessUnsigned, decide_eq_true_eq]
  split
  · rw [min_eq_left (by omega), BitVec.ofNat_toNat, BitVec.setWidth_eq]
  · rw [min_eq_right (by omega), BitVec.ofNat_toNat, BitVec.setWidth_eq]

theorem maxUnsigned_eq (a b : Word) : maxUnsigned a b = BitVec.ofNat 32 (max a.toNat b.toNat) := by
  simp only [maxUnsigned, lessUnsigned, decide_eq_true_eq]
  split
  · rw [max_eq_left (by omega), BitVec.ofNat_toNat, BitVec.setWidth_eq]
  · rw [max_eq_right (by omega), BitVec.ofNat_toNat, BitVec.setWidth_eq]

/-- Settles O32: one read-modify-write for all nine, which differ in the word they compute. -/
theorem amosReadModifyWrite : Obligations.AmosReadModifyWrite := by
  intro s rd rs1 rs2 aq rl pa i new hi hl ha hr ho hw
  simp only [List.mem_cons, Prod.mk.injEq, List.not_mem_nil, or_false] at hi
  rcases hi with ⟨rfl, rfl⟩ | ⟨rfl, rfl⟩ | ⟨rfl, rfl⟩ | ⟨rfl, rfl⟩ | ⟨rfl, rfl⟩ | ⟨rfl, rfl⟩ | ⟨rfl, rfl⟩ | ⟨rfl, rfl⟩ |
    ⟨rfl, rfl⟩
  · exact exec_amo hl ha hr ho hw (rs2 := rs2) rfl rfl
  · exact exec_amo hl ha hr ho hw (rs2 := rs2) rfl rfl
  · exact exec_amo hl ha hr ho hw (rs2 := rs2) rfl rfl
  · exact exec_amo hl ha hr ho hw (rs2 := rs2) rfl rfl
  · exact exec_amo hl ha hr ho hw (rs2 := rs2) rfl rfl
  · exact exec_amo hl ha hr ho hw (rs2 := rs2) rfl (minSigned_eq ..)
  · exact exec_amo hl ha hr ho hw (rs2 := rs2) rfl (maxSigned_eq ..)
  · exact exec_amo hl ha hr ho hw (rs2 := rs2) rfl (minUnsigned_eq ..)
  · exact exec_amo hl ha hr ho hw (rs2 := rs2) rfl (maxUnsigned_eq ..)

end Sys2Proof.Machine
end

section
/-! PROOFS. The family of spec/50_execution_fsm.md, at the instruction level: one pass fetches, decides between an
interrupt, a fetch fault, an undecodable word and the instruction, and retires (R430). -/

namespace Sys2Proof.Machine

/-! ## What a pass keeps until it retires -/

/-- Stage, fetched word and instruction count, which nothing between the fetch and `retire` touches. -/
def State.sameProgress (s t : State) : Prop :=
  t.stage = s.stage ∧ t.instWord = s.instWord ∧ t.ctl.instCount = s.ctl.instCount

section Progress
variable {s t u : State}

theorem State.sameProgress.trans (h : s.sameProgress t) (h' : t.sameProgress u) : s.sameProgress u :=
  ⟨h'.1.trans h.1, h'.2.1.trans h.2.1, h'.2.2.trans h.2.2⟩

theorem State.sameButExecute.progress (h : s.sameButExecute t) : s.sameProgress t :=
  ⟨(congrArg State.stage h :), (congrArg State.instWord h :), congrArg Control.instCount h.ctl⟩

theorem dataPhase_progress (m : MemReq) : s.sameProgress (dataPhase m s) :=
  ⟨dataPhase_stage s m, dataPhase_instWord s m, (congrArg Control.instCount (dataPhase_ctl s m) :)⟩

theorem amoCommit_progress (h : amoCommit s = .next t) : s.sameProgress t := by
  rcases amoCommit_next h with rfl | rfl
  · exact ⟨rfl, rfl, rfl⟩
  · exact ⟨busWrite_stage .., busWrite_instWord .., by rw [busWrite_ctl]⟩

theorem exec_progress {i : Instr} (he : exec i s = .next t) : s.sameProgress t := by
  cases hm : preDecode i s with
  | none => exact (State.sameButExecute.of_sameMachine (exec_sameMachine hm he)).progress
  | some m =>
    obtain ⟨u, hu, hexec⟩ := exec_access hm
    have hbody := (dataPhase_progress m).trans (executeBody_frame hu).progress
    rw [hexec] at he
    split at he
    · exact hbody.trans (amoCommit_progress he)
    · cases he; exact hbody

theorem accessOfWord_progress : s.sameProgress (accessOfWord s) := by
  unfold accessOfWord
  split
  · exact dataPhase_progress _
  · exact ⟨rfl, rfl, rfl⟩

theorem passExecute_progress (he : passExecute s = .next t) : s.sameProgress t := by
  refine .trans (t := s.beginExec) ⟨rfl, rfl, rfl⟩ ?_
  rcases passExecute_cases s with ⟨j, -, e⟩ | ⟨-, ⟨-, e⟩ | ⟨-, -, e⟩ | ⟨-, -, ⟨-, e⟩ | ⟨i, -, e⟩⟩⟩ <;> rw [e] at he
  · cases he
    exact accessOfWord_progress.trans (State.sameButExecute.of_sameMachine (.trap ..)).progress
  · cases he; exact (State.sameButExecute.of_sameMachine (.raise ..)).progress
  · cases he; exact (State.sameButExecute.of_sameMachine (.raise ..)).progress
  · cases he; exact (State.sameButExecute.of_sameMachine .undecodable).progress
  · exact exec_progress he

end Progress

/-- The fetch leaves the stage, the count of instructions and the configuration alone. -/
theorem fetchPhase_progress (s : State) : (fetchPhase s).stage = s.stage ∧
    (fetchPhase s).ctl.instCount = s.ctl.instCount ∧ (fetchPhase s).cfg = s.cfg := by
  have answer (p : Translation × State) : (fetchAnswer p).stage = p.2.stage ∧
      (fetchAnswer p).ctl.instCount = p.2.ctl.instCount ∧ (fetchAnswer p).cfg = p.2.cfg := by
    obtain ⟨r, u⟩ := p
    cases r
    case ok pa =>
      simp only [fetchAnswer]
      split
      · unfold fetchWord
        split <;> rename_i v hv <;> obtain rfl : _ = v := congrArg Prod.snd hv <;> exact ⟨rfl, rfl, rfl⟩
      · exact ⟨rfl, rfl, rfl⟩
    all_goals exact ⟨rfl, rfl, rfl⟩
  obtain ⟨hstage, hcount, hcfg⟩ := answer (translate (fetchStart s) s.pc .fetch)
  have hwalk : (translate (fetchStart s) s.pc .fetch).2.ctl.instCount = s.ctl.instCount :=
    (congrArg (fun u : State => u.ctl.instCount) (translate_frame (fetchStart s) s.pc .fetch) :)
  rw [fetchPhase_eq, hstage, hcount, hcfg]
  exact ⟨translate_stage .., hwalk, translate_cfg ..⟩

theorem instructionPass_eq_next_iff {s t : State} :
    instructionPass s = .next t ↔ ∃ u, passExecute (fetchPhase s) = .next u ∧ retire u = t := by
  unfold instructionPass
  cases passExecute (fetchPhase s) <;> simp

/-- Settles O12: nothing between the fetch and `retire` touches stage, word or count; `retire` does the rest. -/
theorem eachPassCountsOneInstruction : Obligations.EachPassCountsOneInstruction := by
  intro s t hs ht
  rw [step_ready hs, instructionPass_eq_next_iff] at ht
  obtain ⟨u, hu, rfl⟩ := ht
  obtain ⟨hstage, hword, hcount⟩ := passExecute_progress hu
  obtain ⟨hstage', hcount', -⟩ := fetchPhase_progress s
  obtain ⟨-, -, -, -, -, hw, hlatch, hctl, hstatus, hst⟩ := retire_cases u
  have hboundary : s.stage = .prepareFetch := by
    have := hs.1
    simp only [State.atBoundary, Bool.and_eq_true, beq_iff_eq] at this
    exact this.1.1
  refine ⟨by rw [hctl, hcount, hcount'], by rw [hstatus, hcount, hcount'], hlatch, ?_⟩
  rw [hst, hw, hstage, hstage', hboundary]
  rfl

/-! ## The fetch -/

/-- Settles O6: the fetched word is the slave's at the translated address, four bytes. -/
theorem fetchReadsTheWordAtPc : Obligations.FetchReadsTheWordAtPc := by
  intro s pa hw hr ho
  obtain ⟨hword, hpa, hflags, -⟩ := fetchPhase_reads hw hr ho
  rw [hword, hflags]
  exact ⟨rfl, hpa, rfl, rfl⟩

/-- What a fetch that reads its word leaves, for the decision that follows. -/
theorem fetchPhase_fetches {s : State} {w : Word} (h : s.fetches w) :
    (fetchPhase s).instWord = w ∧ (fetchPhase s).flags = (fetchStart s).flags := by
  obtain ⟨hw, pa, hr, ho, hword⟩ := h
  obtain ⟨hinst, -, hflags, -⟩ := fetchPhase_reads hw hr ho
  exact ⟨hinst.trans hword, hflags⟩

/-- The fetch does not change which interrupt is taken. -/
theorem takeableInterrupt_fetchPhase (s : State) : takeableInterrupt (fetchPhase s) = takeableInterrupt s := by
  obtain ⟨-, -, hpriv, hcsr, -⟩ := fetchPhase_sameArch s
  exact takeableInterrupt_congr hcsr hpriv

/-- With no interrupt and no fetch fault, the decoded instruction is executed. -/
theorem passExecute_ok {s : State} {i : Instr} (hi : takeableInterrupt s = none) (hp : s.flags.pageFaultInst = false)
    (ha : s.flags.accessFaultInst = false) (hd : decode s.instWord = .ok i) : passExecute s = exec i s.beginExec := by
  rcases passExecute_cases s with ⟨j, hj, -⟩ | ⟨-, ⟨h, -⟩ | ⟨-, h, -⟩ | ⟨-, -, ⟨⟨e, he⟩, -⟩ | ⟨i', hi', e⟩⟩⟩
  · simp [hi] at hj
  · simp [hp] at h
  · simp [ha] at h
  · simp [hd] at he
  · rw [hd] at hi'
    cases hi'
    exact e

/-- With no interrupt to take, the fetched word's instruction is executed. -/
theorem passExecute_decoded {s : State} {w : Word} {i : Instr} (hf : s.fetches w) (hd : decode w = .ok i)
    (hi : takeableInterrupt s = none) : passExecute (fetchPhase s) = exec i (fetchPhase s).beginExec := by
  obtain ⟨hword, hflags⟩ := fetchPhase_fetches hf
  exact passExecute_ok ((takeableInterrupt_fetchPhase s).trans hi) (by rw [hflags]; rfl) (by rw [hflags]; rfl)
    (by rw [hword, hd])

/-- Settles O5: the pass executes the decoded instruction, and what it answers is retired. -/
theorem stepRunsDecodedInstruction : Obligations.StepRunsDecodedInstruction := by
  intro s w i hs hf hd hi
  refine ⟨fetchPhase_sameArch s, (fetchPhase_fetches hf).1, ?_⟩
  rw [step_ready hs, instructionPass, passExecute_decoded hf hd hi]
  cases exec i (fetchPhase s).beginExec <;> rfl

/-! ## Traps in place of the instruction -/

theorem State.sameRegs_of_x {s t : State} (h : t.x = s.x) : s.sameRegs t := fun q => by simp only [State.reg, h]

section Retired
variable {s t : State}

theorem State.tookException_congr {u : State} {e : Exc} {v : Word} (h : s.tookException t e v) (hpc : u.pc = t.pc)
    (hpriv : u.priv = t.priv) (hcsr : u.csr = t.csr) : s.tookException u e v := by
  simpa only [State.tookException, hpc, hpriv, hcsr] using h

theorem retire_flags (t : State) : (retire t).flags = t.flags := by
  obtain ⟨-, -, -, h, -⟩ := retire_cases t
  exact h

/-- An exception that ends a pass, retired: the step took it, and nothing else a program sees changed. -/
theorem step_exception {u : State} {e : Exc} {v : Word} (hs : s.ready)
    (hpass : passExecute (fetchPhase s) = .next (raise e v u)) (hu : s.sameArch u) (hword : u.instWord ≠ Config.instEbreak) :
    step s = .next (retire (raise e v u)) ∧ s.tookException (retire (raise e v u)) e v ∧
      s.sameRegs (retire (raise e v u)) ∧ (retire (raise e v u)).slave = s.slave ∧
      (retire (raise e v u)).res = s.res := by
  obtain ⟨hx, hpc, hpriv, hcsr, hres, hslave, -⟩ := hu
  obtain ⟨⟨hx', -, hpriv', hcsr', hres', hslave', -⟩, hpc', -⟩ := retire_cases (raise e v u)
  have hsame : u.sameMachine (raise e v u) := .raise ..
  refine ⟨?_, State.tookException_congr (raise_tookException e v hpc hpriv hcsr)
    (hpc' (by rw [hsame.instWord]; exact hword)) hpriv' hcsr',
    State.sameRegs_of_x (hx'.trans ((trapEntry_x ..).trans hx)), hslave'.trans (hsame.slave.trans hslave),
    hres'.trans (hsame.res.trans hres)⟩
  · rw [step_ready hs, instructionPass_eq_next_iff]
    exact ⟨_, hpass, rfl⟩

end Retired

/-- A translation that page-faults leaves its flag and no instruction word (R402). -/
theorem fetchPhase_pageFault {s : State} (h : (translate s s.pc .fetch).1 = .pageFault) :
    (fetchPhase s).flags.pageFaultInst = true ∧ (fetchPhase s).instWord = 0#32 := by
  rw [fetchPhase_eq, fetchAnswer_pageFault ((fetchStart_translate s s.pc .fetch).trans h)]
  exact ⟨rfl, rfl⟩

/-- A walk that access-faults, an address out of bounds and an error response leave the access-fault flag and no
instruction word (R402, R405). -/
theorem fetchPhase_accessFault {s : State} (h : (translate s s.pc .fetch).1 = .accessFault ∨
      ∃ pa, (translate s s.pc .fetch).1 = .ok pa ∧ (s.inBounds pa = false ∨ ¬s.readsOk pa)) :
    (fetchPhase s).flags.pageFaultInst = false ∧ (fetchPhase s).flags.accessFaultInst = true ∧
      (fetchPhase s).instWord = 0#32 := by
  have hpage : (translate (fetchStart s) s.pc .fetch).2.flags.pageFaultInst = false := by rw [translate_flags]; rfl
  have hslave : (translate (fetchStart s) s.pc .fetch).2.slave = s.slave := translate_slave (fetchStart s) _ _
  have hbounds (pa : Word) := translate_inBounds (fetchStart s) s.pc .fetch pa
  have hanswer := fetchStart_translate s s.pc .fetch
  rw [fetchPhase_eq]
  generalize translate (fetchStart s) s.pc .fetch = p at *
  rcases h with hwalk | ⟨pa, hok, hfail⟩
  · rw [fetchAnswer_accessFault (hanswer.trans hwalk)]
    exact ⟨hpage, rfl, rfl⟩
  · cases hb : s.inBounds pa with
    | false =>
      rw [fetchAnswer_outOfBounds (hanswer.trans hok) ((hbounds pa).trans hb)]
      exact ⟨hpage, rfl, rfl⟩
    | true =>
      have herr : s.slave.readErr.contains (wordAddress pa) = true := by simpa [State.readsOk, hb] using hfail
      have hread : busRead pa { p.2 with fetchPaddr := pa } = (true, (busRead pa { p.2 with fetchPaddr := pa }).2) :=
        Prod.ext (by rw [← herr, ← hslave]; rfl) rfl
      rw [fetchAnswer_ok (hanswer.trans hok) ((hbounds pa).trans hb), fetchWord, hread]
      exact ⟨hpage, rfl, rfl⟩

section Decision
variable {s : State} (hi : takeableInterrupt s = none)
include hi

theorem passExecute_pageFault (h : s.flags.pageFaultInst = true) :
    passExecute s = .next (raise .instrPageFault s.pc s.beginExec) := by
  rcases passExecute_cases s with ⟨j, hj, -⟩ | ⟨-, ⟨-, e⟩ | ⟨h', -⟩ | ⟨h', -⟩⟩
  · simp [hi] at hj
  · exact e
  all_goals simp [h] at h'

theorem passExecute_accessFault (h : s.flags.pageFaultInst = false) (h' : s.flags.accessFaultInst = true) :
    passExecute s = .next (raise .instrAccessFault s.pc s.beginExec) := by
  rcases passExecute_cases s with ⟨j, hj, -⟩ | ⟨-, ⟨hp, -⟩ | ⟨-, -, e⟩ | ⟨-, ha, -⟩⟩
  · simp [hi] at hj
  · simp [h] at hp
  · exact e
  · simp [h'] at ha

theorem passExecute_undecodable {e : DecodeReject} (h : s.flags.pageFaultInst = false)
    (h' : s.flags.accessFaultInst = false) (hd : decode s.instWord = .error e) :
    passExecute s = .next (raiseUndecodable s.beginExec) := by
  rcases passExecute_cases s with ⟨j, hj, -⟩ | ⟨-, ⟨hp, -⟩ | ⟨-, ha, -⟩ | ⟨-, -, ⟨-, he⟩ | ⟨i, hok, -⟩⟩⟩
  · simp [hi] at hj
  · simp [h] at hp
  · simp [h'] at ha
  · exact he
  · simp [hd] at hok

end Decision

/-- Settles O7: each failure leaves its own flag or an undecodable word, for which the decision raises its exception. -/
theorem fetchFailuresTrap : Obligations.FetchFailuresTrap := by
  intro s hs hi
  have hnone := (takeableInterrupt_fetchPhase s).trans hi
  have hsame := fetchPhase_sameArch s
  have hpc : (fetchPhase s).pc = s.pc := hsame.2.1
  refine ⟨fun hpage => ?_, fun hfail => ?_, fun w e hf hd => ?_⟩
  · obtain ⟨hflag, hword⟩ := fetchPhase_pageFault hpage
    have hpass := passExecute_pageFault hnone hflag
    rw [hpc] at hpass
    exact ⟨_, step_exception hs hpass hsame (by rw [show (fetchPhase s).beginExec.instWord = _ from hword]; decide)⟩
  · obtain ⟨hpage, hflag, hword⟩ := fetchPhase_accessFault hfail
    have hpass := passExecute_accessFault hnone hpage hflag
    rw [hpc] at hpass
    exact ⟨_, step_exception hs hpass hsame (by rw [show (fetchPhase s).beginExec.instWord = _ from hword]; decide)⟩
  · obtain ⟨hword, hflags⟩ := fetchPhase_fetches hf
    have hpass := passExecute_undecodable (s := fetchPhase s) hnone (by rw [hflags]; rfl) (by rw [hflags]; rfl)
      (by rw [hword]; exact hd)
    have hne : w ≠ Config.instEbreak := by
      rintro rfl
      have hebreak : decode Config.instEbreak = .ok .ebreak := by decide
      simp [hebreak] at hd
    have hword' : (fetchPhase s).beginExec.instWord = w := hword
    rw [raiseUndecodable, raiseIllegal, show State.instWord _ = w from hword'] at hpass
    obtain ⟨hstep, htook, hregs, hslave, hres⟩ := step_exception hs hpass hsame (by exact hne)
    exact ⟨_, hstep, htook, by rw [retire_flags, raise_flags], hregs, hslave, hres⟩

/-! ## The EBREAK word (R343, R420, D61) -/

/-- Retiring the EBREAK word halts with success. -/
theorem retire_ebreak {t : State} (h : t.instWord = Config.instEbreak) :
    (retire t).stage = .halted ∧ (retire t).ctl.success = true ∧ (retire t).returnCode = 1 := by
  unfold retire
  simp only [if_pos h]
  exact ⟨rfl, rfl, rfl⟩

/-- The access made before an interrupt is taken touches nothing but memory, caches, flags and time. -/
theorem accessOfWord_keeps (s : State) :
    (accessOfWord s).x = s.x ∧ (accessOfWord s).pc = s.pc ∧ (accessOfWord s).priv = s.priv ∧
      (accessOfWord s).csr = s.csr ∧ (accessOfWord s).res = s.res := by
  unfold accessOfWord
  split
  · exact ⟨dataPhase_x .., dataPhase_pc .., dataPhase_priv .., dataPhase_csr .., dataPhase_res ..⟩
  · exact ⟨rfl, rfl, rfl, rfl, rfl⟩

theorem accessOfWord_none {s : State} {i : Instr} (hd : decode s.instWord = .ok i) (hm : preDecode i s = none) :
    accessOfWord s = s := by
  simp only [accessOfWord, preDecodeWord, hd, hm]

theorem accessOfWord_some {s : State} {i : Instr} {m : MemReq} (hd : decode s.instWord = .ok i)
    (hm : preDecode i s = some m) : accessOfWord s = dataPhase m s := by
  simp only [accessOfWord, preDecodeWord, hd, hm]

/-- The flags after a trap (R505, R520). -/
theorem trapEntry_flags (t : Trap) (v : Word) (s : State) :
    (trapEntry t v s).flags = { s.flags with isException := true, asy := trapIsInterrupt t } := by
  cases h : trapToS t s
  · rw [trapEntry_notDelegated _ _ h]
  · rw [trapEntry_delegated _ _ h]

/-- With an interrupt to take, the pass takes it after the access of the fetched word. -/
theorem passExecute_interrupt {s : State} {j : Interrupt} (hi : takeableInterrupt s = some j) :
    passExecute s = .next (takeInterrupt j (accessOfWord s.beginExec)) := by
  rcases passExecute_cases s with ⟨k, hk, e⟩ | ⟨hnone, -⟩
  · rw [hi] at hk; cases hk; exact e
  · simp [hi] at hnone

/-- Settles O13: `retire` halts on the word; executed it sets `sim_end`, interrupted it makes no access. -/
theorem ebreakWordHalts : Obligations.EbreakWordHalts := by
  intro s hs hf
  have hebreak : decode Config.instEbreak = .ok .ebreak := by decide
  obtain ⟨hword, hflags⟩ := fetchPhase_fetches hf
  obtain ⟨hx, -, hpriv, hcsr, hres, hslave, -⟩ := fetchPhase_sameArch s
  have halt {u : State} (hu : passExecute (fetchPhase s) = .next u) :
      step s = .next (retire u) ∧ (retire u).stage = .halted ∧ (retire u).ctl.success = true ∧
        (retire u).returnCode = 1 :=
    ⟨by rw [step_ready hs, instructionPass_eq_next_iff]; exact ⟨u, hu, rfl⟩,
      retire_ebreak ((passExecute_progress hu).2.1.trans hword)⟩
  cases hi : takeableInterrupt s with
  | none =>
    have hpass := passExecute_decoded hf hebreak hi
    obtain ⟨hstep, hstage, hsuccess, hcode⟩ := halt hpass
    obtain ⟨⟨hx', -, hpriv', hcsr', hres', hslave', -⟩, -⟩ :=
      retire_cases { (fetchPhase s).beginExec.advancePc with flags.simEnd := true }
    exact ⟨_, hstep, hstage, hsuccess, hcode, fun _ => ⟨(congrArg Flags.simEnd (retire_flags _) :),
      State.sameRegs_of_x (hx'.trans hx), hcsr'.trans hcsr, hpriv'.trans hpriv, hslave'.trans hslave,
      hres'.trans hres⟩, fun h => absurd rfl h⟩
  | some j =>
    have hpass := passExecute_interrupt ((takeableInterrupt_fetchPhase s).trans hi)
    obtain ⟨hstep, hstage, hsuccess, hcode⟩ := halt hpass
    have haccess : accessOfWord (fetchPhase s).beginExec = (fetchPhase s).beginExec :=
      accessOfWord_none ((congrArg decode hword).trans hebreak :) rfl
    refine ⟨_, hstep, hstage, hsuccess, hcode, fun h => by simp at h, fun _ => ?_⟩
    rw [haccess, takeInterrupt, retire_flags, trapEntry_flags]
    exact ⟨by rw [show (fetchPhase s).beginExec.flags.simEnd = (fetchPhase s).flags.simEnd from rfl, hflags]; rfl, rfl⟩

/-! ## Interrupts (R510, R520, R572) -/

/-- An interrupt taken in a state with the pc, mode and CSRs of `s` was taken from `s`, its pc where the machine runs on. -/
theorem takeInterrupt_tookInterrupt {s d t : State} {j : Interrupt} (hpc : d.pc = s.pc) (hpriv : d.priv = s.priv)
    (hcsr : d.csr = s.csr) (htpriv : t.priv = (takeInterrupt j d).priv) (htcsr : t.csr = (takeInterrupt j d).csr)
    (htpc : t.stage ≠ .halted → t.pc = (takeInterrupt j d).pc) : s.tookInterrupt t j := by
  have hcause := trapCauseValue_eq_add (.int j)
  have hvector := trapVector_eq_add (.int j)
  have hS := trapToS_iff (.int j) d
  simp only [hpriv, hcsr] at hS
  unfold State.tookInterrupt
  by_cases h : trapToS (.int j) d = true
  · rw [if_pos (by exact hS.mp h)]
    rw [takeInterrupt, trapEntry_delegated _ _ h] at htpriv htcsr htpc
    rw [htpriv, htcsr]
    refine ⟨rfl, hpc, hcause, rfl, ?_, fun hst => (htpc hst).trans ?_⟩
    · simp [enterS, hpriv, hcsr]
    · rw [← hcsr]
      simpa [enterS, trapIsInterrupt, trapCode] using hvector d.csr.stvec
  · rw [if_neg (by exact fun h' => h (hS.mpr h'))]
    rw [takeInterrupt, trapEntry_notDelegated _ _ (by simpa using h)] at htpriv htcsr htpc
    rw [htpriv, htcsr]
    refine ⟨rfl, hpc, hcause, rfl, ?_, fun hst => (htpc hst).trans ?_⟩
    · simp [enterM, hpriv, hcsr]
    · rw [← hcsr]
      simpa [enterM, trapIsInterrupt, trapCode] using hvector d.csr.mtvec

/-- What the step that takes an interrupt leaves: the trap's doing on the state its access left, retired. -/
theorem step_interrupt {s : State} {j : Interrupt} (hs : s.ready) (hi : takeableInterrupt s = some j) :
    step s = .next (retire (takeInterrupt j (accessOfWord (fetchPhase s).beginExec))) := by
  rw [step_ready hs, instructionPass_eq_next_iff]
  exact ⟨_, passExecute_interrupt ((takeableInterrupt_fetchPhase s).trans hi), rfl⟩

/-- An untranslated address in the bounds is reached as it stands (R113). -/
theorem reaches_of_bare {s : State} {va : Word} {ty : Access} (h : s.csr.satp.getLsbD 31 = false)
    (hb : s.inBounds va = true) : s.reaches va ty va :=
  ⟨by rw [translate_bare s (by rw [translationOn, h]; rfl)], hb⟩

/-- Settles O9: the trap is taken on the state that the word's access left, which has the CSRs, mode, pc and registers of
the boundary, and memory as the access left it. -/
theorem interruptReplacesInstruction : Obligations.InterruptReplacesInstruction := by
  intro s j hs hi
  obtain ⟨hx, hpc, hpriv, hcsr, hres, hslave, huart⟩ := fetchPhase_sameArch s
  obtain ⟨hx', hpc', hpriv', hcsr', hres'⟩ := accessOfWord_keeps (fetchPhase s).beginExec
  obtain ⟨-, hcount', hcfg⟩ := fetchPhase_progress s
  have hstep := step_interrupt hs hi
  generalize hd : accessOfWord (fetchPhase s).beginExec = d at *
  obtain ⟨⟨rx, -, rpriv, rcsr, rres, rslave, ruart⟩, rpc, -, -, -, -, -, rcount, -, rstage⟩ :=
    retire_cases (takeInterrupt j d)
  have hframe : d.sameButTrap (takeInterrupt j d) := trapEntry_sameButTrap ..
  have hsame : d.sameMachine (takeInterrupt j d) := .trap ..
  refine ⟨⟨_, hstep, takeInterrupt_tookInterrupt (hpc'.trans hpc) (hpriv'.trans hpriv) (hcsr'.trans hcsr) rpriv rcsr
    fun hst => rpc fun hw => hst (by rw [rstage, if_pos hw]),
    State.sameRegs_of_x (rx.trans ((trapEntry_x ..).trans (hx'.trans hx))), ?_, ?_, ?_, ?_, ?_⟩, ?_⟩
  · exact rres.trans (hsame.res.trans (hres'.trans hres))
  · obtain ⟨-, -, hcount⟩ := hd ▸ accessOfWord_progress (s := (fetchPhase s).beginExec)
    rw [rcount, hsame.ctl, hcount]
    exact congrArg (· + 1#64) hcount'
  · exact (congrArg Csrs.mip rcsr).trans ((congrArg (fun u : State => u.csr.mip) hframe :).trans
      (congrArg Csrs.mip (hcsr'.trans hcsr)))
  · exact (congrArg Csrs.mie rcsr).trans ((congrArg (fun u : State => u.csr.mie) hframe :).trans
      (congrArg Csrs.mie (hcsr'.trans hcsr)))
  · exact (congrArg Csrs.satp rcsr).trans ((congrArg (fun u : State => u.csr.satp) hframe :).trans
      (congrArg Csrs.satp (hcsr'.trans hcsr)))
  · intro w rs1 rs2 imm hl hbare hf hdec ha hb hw
    have hbegin : (fetchPhase s).beginExec.Legal := (fetchPhase_legal hl).congr rfl rfl rfl rfl
    have hreg (q : Reg) : (fetchPhase s).beginExec.reg q = s.reg q := State.sameRegs_of_x hx q
    have hdec' : decode (fetchPhase s).beginExec.instWord = .ok (.sw rs1 rs2 imm) :=
      (congrArg decode (fetchPhase_fetches hf).1).trans hdec
    have haddr : effectiveAddress (fetchPhase s).beginExec rs1 imm = s.reg rs1 + imm.signExtend 32 :=
      congrArg (· + imm.signExtend 32) (hreg rs1)
    rw [accessOfWord_some hdec' rfl, storeReq, haddr, hreg] at hd
    have hr : (fetchPhase s).beginExec.reaches (s.reg rs1 + imm.signExtend 32) .store (s.reg rs1 + imm.signExtend 32) :=
      reaches_of_bare (hcsr ▸ hbare) (by rw [State.inBounds] at hb ⊢; exact hcfg ▸ hb)
    have hwrite : (fetchPhase s).beginExec.writesOk (s.reg rs1 + imm.signExtend 32) := by
      rw [State.writesOk] at hw ⊢; exact hslave ▸ hw
    have hn : 4 = 1 ∨ 4 = 2 ∨ 4 = 4 := by decide
    have hbytes := dataPhase_store_bytes (m := ⟨.store, _, 4, .store, s.reg rs2⟩) hbegin ha hr hn rfl hwrite
    have huart' := dataPhase_stores_uart _ (m := ⟨.store, _, 4, .store, s.reg rs2⟩) ha hr hn rfl
    rw [hd] at hbytes huart'
    obtain ⟨hholds, hout, -⟩ := hbytes
    have hslave' : (retire (takeInterrupt j d)).slave = d.slave := rslave.trans hsame.slave
    refine ⟨_, hstep, fun k hk => ?_, fun a hout' => ?_, ?_⟩
    · rw [hslave']; exact hholds k hk
    · rw [hslave', ← hslave]; exact hout a hout'
    · refine (ruart.trans hsame.uartOut).trans (huart'.trans ?_)
      rw [State.uartAfter, State.uartAfter, ← hcfg, ← huart]
      rfl

/-! ## When a step stops (R314, R425, log 9) -/

/-- A next state, or the one fault of the model. -/
def mayStop (r : Result) : Prop := (∃ t, r = .next t) ∨ r = .fault .amoWriteBusError

theorem amoCommit_mayStop (s : State) : mayStop (amoCommit s) := by
  cases hl : s.latch.store with
  | false => exact .inl ⟨_, amoCommit_clear s hl⟩
  | true =>
    cases hw : s.slave.writeErr.contains (wordAddress s.latch.addr) with
    | false => exact .inl ⟨_, amoCommit_write s hl hw⟩
    | true => exact .inr (amoCommit_error s hl hw)

theorem exec_mayStop (i : Instr) (s : State) : mayStop (exec i s) := by
  cases hm : preDecode i s with
  | none => exact .inl (exec_completes hm)
  | some m =>
    obtain ⟨u, -, hexec⟩ := exec_access hm
    rw [hexec]
    split
    · exact amoCommit_mayStop u
    · exact .inl ⟨u, rfl⟩

theorem instructionPass_mayStop (s : State) : mayStop (instructionPass s) := by
  have hpass : mayStop (passExecute (fetchPhase s)) := by
    rcases passExecute_cases (fetchPhase s) with ⟨j, -, e⟩ | ⟨-, ⟨-, e⟩ | ⟨-, -, e⟩ | ⟨-, -, ⟨-, e⟩ | ⟨i, -, e⟩⟩⟩ <;>
      rw [e]
    · exact .inl ⟨_, rfl⟩
    · exact .inl ⟨_, rfl⟩
    · exact .inl ⟨_, rfl⟩
    · exact .inl ⟨_, rfl⟩
    · exact exec_mayStop i _
  rw [instructionPass]
  rcases hpass with ⟨t, e⟩ | e <;> rw [e]
  · exact .inl ⟨_, rfl⟩
  · exact .inr rfl

/-- The Execute part of an instruction always answers: its faults are exceptions (R421). -/
theorem executeBody_completes (i : Instr) (s : State) : ∃ t, executeBody i s = .next t := by
  cases i <;> exact ⟨_, rfl⟩

theorem stageExecute_completes (s : State) : ∃ t, stageExecute s = .next t := by
  have hexec : ∃ t, execStage s = .next t := by
    unfold execStage
    dsimp only
    split
    · exact ⟨_, rfl⟩
    · split
      · exact ⟨_, rfl⟩
      · split
        · exact ⟨_, rfl⟩
        · split
          · exact ⟨_, rfl⟩
          · exact executeBody_completes _ _
  obtain ⟨t, h⟩ := hexec
  exact ⟨_, by rw [stageExecute, h]⟩

/-- Phase (d) stops in WaitAmoWrite only, on an error response it has seen. -/
theorem advanceStage_stops (s : State) : (∃ t, advanceStage s = .next t) ∨
    advanceStage s = .fault .amoWriteBusError ∧ s.stage = .waitAmoWrite ∧ s.bus.writeReq.respErr = true := by
  unfold advanceStage
  split
  · exact .inl ⟨_, rfl⟩
  · unfold stageTransition
    cases hst : s.stage
    case execute => exact .inl (stageExecute_completes s)
    case waitAmoWrite =>
      simp only [stageWaitAmoWrite]
      split
      · split
        next herr => exact .inr ⟨rfl, trivial, herr⟩
        next => exact .inl ⟨_, rfl⟩
      · exact .inl ⟨_, rfl⟩
    all_goals exact .inl ⟨_, rfl⟩

theorem arHandshake_writeReq (r : Bool) (b : Bus) : (arHandshake r b).writeReq = b.writeReq := by
  unfold arHandshake
  repeat' split
  all_goals rfl

theorem awHandshake_respErr (r : Bool) (b : Bus) : (awHandshake r b).writeReq.respErr = b.writeReq.respErr := by
  unfold awHandshake
  split <;> rfl

theorem captureR_writeReq (inp : AxiIn) (o : AxiOut) (s : State) :
    (captureR inp o s).bus.writeReq = s.bus.writeReq := by
  unfold captureR
  repeat' split
  all_goals rfl

theorem captureW_respErr (inp : AxiIn) (o : AxiOut) (s : State) :
    (captureW inp o s).bus.writeReq.respErr = s.bus.writeReq.respErr := by
  unfold captureW
  split <;> rfl

theorem captureB_respErr (inp : AxiIn) (o : AxiOut) (s : State) (h : (captureB inp o s).bus.writeReq.respErr = true) :
    s.bus.writeReq.respErr = true ∨ (inp.bvalid = true ∧ inp.bresp ≠ 0#2) := by
  unfold captureB at h
  split at h
  next hb =>
    simp only [Bool.or_eq_true, bne_iff_ne, Bool.and_eq_true] at h hb
    exact h.imp_right fun hresp => ⟨hb.1.1, hresp⟩
  next => exact .inl h

theorem completeMmu_writeReq (s : State) : (completeMmu s).bus.writeReq = s.bus.writeReq := by
  unfold completeMmu
  split <;> rfl

/-- The bus phases mark a write's response as an error only on an error beat (R463). -/
theorem busPhases_writeReq_respErr (inp : AxiIn) (s : State) (h : (busPhases inp s).bus.writeReq.respErr = true) :
    s.bus.writeReq.respErr = true ∨ (inp.bvalid = true ∧ inp.bresp ≠ 0#2) := by
  have hhandshakes : (handshakes inp s).bus.writeReq.respErr = s.bus.writeReq.respErr :=
    (awHandshake_respErr inp.awready _).trans (congrArg WriteReq.respErr (arHandshake_writeReq inp.arready s.bus))
  rw [busPhases_eq, completeMmu_writeReq] at h
  have := captureB_respErr inp _ _ h
  rwa [captureW_respErr, captureR_writeReq, hhandshakes] at this

theorem tick_stops (inp : AxiIn) (s : State) : (∃ t, tick inp s = .next t) ∨
    tick inp s = .fault .amoWriteBusError ∧ s.stage = .waitAmoWrite ∧
      (s.bus.writeReq.respErr = true ∨ (inp.bvalid = true ∧ inp.bresp ≠ 0#2)) := by
  unfold tick
  split
  · exact .inl ⟨_, rfl⟩
  · rcases advanceStage_stops (busPhases inp s) with ⟨t, e⟩ | ⟨e, hstage, herr⟩ <;> rw [e]
    · exact .inl ⟨_, rfl⟩
    · exact .inr ⟨rfl, (congrArg State.stage (busPhases_frame inp s) :) ▸ hstage, busPhases_writeReq_respErr inp s herr⟩

/-- A step is one pass, one tick, or an answer at once. -/
theorem step_mayStop (s : State) : mayStop (step s) := by
  unfold step machineStep
  split
  · exact .inl ⟨_, rfl⟩
  · split
    · unfold limitedPass
      split
      · exact .inl ⟨_, rfl⟩
      · exact instructionPass_mayStop s
    · unfold idealTick
      split
      · exact .inl ⟨_, rfl⟩
      · exact (tick_stops (idealInput s) (slaveAcceptW s)).imp id And.left

theorem amoCommit_stops {s : State} (h : amoCommit s = .fault .amoWriteBusError) :
    s.latch.store = true ∧ s.slave.writeErr.contains (wordAddress s.latch.addr) = true := by
  cases hl : s.latch.store with
  | false => rw [amoCommit_clear s hl] at h; cases h
  | true =>
    cases hw : s.slave.writeErr.contains (wordAddress s.latch.addr) with
    | false => rw [amoCommit_write s hl hw] at h; cases h
    | true => exact ⟨rfl, rfl⟩

section Stops
variable {s : State} {rs1 : Reg}

/-- Execute found no fault and the write is answered with an error: where the access of an SC.W or AMO had got to. -/
theorem amoReq_stops (hf : storeFault (dataPhase (amoReq rs1 s) s) = none)
    (hw : (dataPhase (amoReq rs1 s) s).slave.writeErr.contains
      (wordAddress (dataPhase (amoReq rs1 s) s).memop.paddr) = true) :
    ∃ pa, (dataPhase (amoReq rs1 s) s).memop.paddr = pa ∧ (s.reg rs1).toNat % 4 = 0 ∧ s.reaches (s.reg rs1) .store pa ∧
      s.readsOk pa ∧ ¬s.writesOk pa := by
  obtain ⟨ha, hr, ho⟩ := dataPhase_noStoreFault s (m := amoReq rs1 s) rfl rfl hf
  rw [(dataPhase_slave s (by simp [amoReq])).1] at hw
  exact ⟨_, rfl, by simpa [misaligned, amoReq] using ha, hr, ho, by rw [State.writesOk, hw]; decide⟩

/-- A trap in place of an SC.W or AMO writes nothing, so nothing stops. -/
theorem amoCommit_raise (e : Exc) (v : Word) (m : MemReq) :
    amoCommit (raise e v (dataPhase m s)) ≠ .fault .amoWriteBusError := fun h => by
  rw [amoCommit_clear _ (by simp [raise])] at h
  cases h

theorem amoBody_stops {f : Word → Word → Word} {rd rs2 : Reg}
    (h : amoCommit (amoBody f rd rs1 rs2 (dataPhase (amoReq rs1 s) s)) = .fault .amoWriteBusError) :
    ∃ pa, (s.reg rs1).toNat % 4 = 0 ∧ s.reaches (s.reg rs1) .store pa ∧ s.readsOk pa ∧ ¬s.writesOk pa := by
  cases hf : storeFault (dataPhase (amoReq rs1 s) s) with
  | some e => rw [amoBody_fault _ hf] at h; exact (amoCommit_raise _ _ _ h).elim
  | none =>
    rw [amoBody_ok _ hf] at h
    obtain ⟨pa, -, hstops⟩ := amoReq_stops hf (by simpa using (amoCommit_stops h).2)
    exact ⟨pa, hstops⟩

theorem scBody_stops {rd rs2 : Reg}
    (h : amoCommit (scBody rd rs1 rs2 (dataPhase (amoReq rs1 s) s)) = .fault .amoWriteBusError) :
    ∃ pa, (s.reg rs1).toNat % 4 = 0 ∧ s.reaches (s.reg rs1) .store pa ∧ s.readsOk pa ∧ ¬s.writesOk pa ∧
      s.res.valid = true ∧ s.res.addr = pa := by
  cases hf : storeFault (dataPhase (amoReq rs1 s) s) with
  | some e => rw [scBody_fault _ hf] at h; exact (amoCommit_raise _ _ _ h).elim
  | none =>
    cases ok : scSucceeds (dataPhase (amoReq rs1 s) s) with
    | false =>
      rw [scBody_failure _ hf ok] at h
      simpa using (amoCommit_stops h).1
    | true =>
      rw [scBody_success _ hf ok] at h
      obtain ⟨pa, hpa, ha, hr, ho, hw⟩ := amoReq_stops hf (by simpa using (amoCommit_stops h).2)
      simp only [scSucceeds, dataPhase_res, hpa, Bool.and_eq_true, beq_iff_eq] at ok
      exact ⟨pa, ha, hr, ho, hw, ok⟩

end Stops

/-- An SC.W or AMO that stops, by the two bodies. -/
theorem exec_stops {i : Instr} {s : State} (h : exec i s = .fault .amoWriteBusError) :
    ∃ rs1 pa, preDecode i s = some (amoReq rs1 s) ∧ (s.reg rs1).toNat % 4 = 0 ∧ s.reaches (s.reg rs1) .store pa ∧
      s.readsOk pa ∧ ¬s.writesOk pa ∧ opcodeOf (encode i) = 0b0101111#7 ∧
      ∀ rd rs1 rs2 aq rl, i = .scW rd rs1 rs2 aq rl → s.res.valid = true ∧ s.res.addr = pa := by
  cases hm : preDecode i s with
  | none =>
    obtain ⟨t, e⟩ := exec_completes hm
    rw [h] at e
    cases e
  | some m =>
    cases i <;> simp only [preDecode, reduceCtorEq] at hm
    case scW rd rs1 rs2 aq rl =>
      obtain ⟨pa, ha, hr, ho, hw, hres⟩ := scBody_stops h
      exact ⟨rs1, pa, hm.symm, ha, hr, ho, hw, opcodeOf_packR .., fun _ _ _ _ _ _ => hres⟩
    case lb | lh | lw | lbu | lhu | sb | sh | sw | lrW => cases h
    all_goals
      obtain ⟨pa, ha, hr, ho, hw⟩ := amoBody_stops h
      exact ⟨_, pa, hm.symm, ha, hr, ho, hw, opcodeOf_packR .., fun _ _ _ _ _ e => by cases e⟩

/-- Settles O14: only `amoCommit` and WaitAmoWrite answer the fault, and only on a write's error response. -/
theorem stepStopsOnlyOnAmoWriteError : Obligations.StepStopsOnlyOnAmoWriteError := by
  refine ⟨step_mayStop, tick_stops, fun i s h => ?_⟩
  obtain ⟨rs1, pa, hm, ha, hr, ho, hw, hopcode, hres⟩ := exec_stops h
  exact ⟨hopcode, amoReq rs1 s, pa, hm, ha, hr, ho, hw, hres⟩

end Sys2Proof.Machine
end

section
/-! PROOFS. Reset and image load (spec/92 D62, spec/10_state.md section 7): the reset state, and the bytes a load leaves in
the slave and the mirror. -/

namespace Sys2Proof.Machine

/-! ## The image's bytes (R561) -/

/-- Consecutive bytes written: each address in the range reads its byte, every other one what it read before. -/
theorem Memory.readByte_writeBytes {m : Memory} (h : m.wf = true) (a : Nat) (bs : List Byte) (ha : a + bs.length ≤ 2 ^ 32)
    (c : Nat) : (m.writeBytes a bs).readByte c = if a ≤ c then bs[c - a]?.getD (m.readByte c) else m.readByte c := by
  induction bs generalizing m a with
  | nil => simp [Memory.writeBytes]
  | cons b bs ih =>
    simp only [List.length_cons] at ha
    rw [Memory.writeBytes, ih (Memory.wf_writeByte h (by omega)) (a + 1) (by omega), Memory.readByte_writeByte h]
    by_cases hc : a + 1 ≤ c
    · have hsub : c - a = c - (a + 1) + 1 := by omega
      have hne : c ≠ a := by omega
      rw [if_pos hc, if_neg hne, if_pos (Nat.le_of_succ_le hc), hsub, List.getElem?_cons_succ]
    · rw [if_neg hc]
      by_cases hca : c = a
      · simp [hca]
      · rw [if_neg hca, if_neg (by omega)]

theorem length_padImage_le {image : List Byte} (h : image.length ≤ 2 ^ 31) : (padImage image).length ≤ 2 ^ 31 := by
  simp only [padImage, List.length_append, List.length_replicate]
  omega

/-- What a load leaves at a byte: the image's from its base on, the value of an unlisted byte below it. -/
theorem readByte_imageMemory {image : List Byte} (h : image.length ≤ 2 ^ 31) (c : Nat) :
    (imageMemory image).readByte c =
      if imageBase ≤ c then (padImage image)[c - imageBase]?.getD (unlistedByte c) else unlistedByte c := by
  have hlen := length_padImage_le h
  exact Memory.readByte_writeBytes rfl imageBase _ (by unfold imageBase; omega) c

/-- A word below the image has the value of R563. -/
theorem readWord_imageMemory {image : List Byte} (h : image.length ≤ 2 ^ 31) {a : Word}
    (ha : wordBase a + 4 ≤ imageBase) : (imageMemory image).readWord a = Memory.readWord [] a := by
  have hbyte (k : Nat) (hk : k < 4) : (imageMemory image).readByte (wordBase a + k) =
      Memory.readByte [] (wordBase a + k) := by
    rw [readByte_imageMemory h, if_neg (by omega)]
    rfl
  have h0 := hbyte 0 (by decide)
  rw [Nat.add_zero] at h0
  rw [Memory.readWord, Memory.readWord, h0, hbyte 1 (by decide), hbyte 2 (by decide), hbyte 3 (by decide)]

theorem readByte_imageMemory_image {image : List Byte} (h : image.length ≤ 2 ^ 31) (k : Nat) (hk : k < image.length) :
    (imageMemory image).readByte (imageBase + k) = image[k] := by
  rw [readByte_imageMemory h, if_pos (by omega), Nat.add_sub_cancel_left, padImage, List.getElem?_append_left hk,
    List.getElem?_eq_getElem hk]
  rfl

/-- Settles O8: reset is a fixed state; a load writes the image over the boot words. -/
theorem resetAndImageLoad : Obligations.ResetAndImageLoad := by
  refine ⟨⟨rfl, rfl, by decide, rfl, rfl, rfl, rfl, fun pa => ?_, rfl, rfl, rfl, rfl, rfl, rfl, rfl, rfl, rfl, rfl, rfl, rfl,
    rfl, rfl, rfl⟩, fun s image m himage hm => ?_⟩
  · simp [State.ptwLookup, State.reset, PtwEntry.invalid]
  · obtain rfl : m = imageMemory image := by
      simpa [State.loadImage] using hm
    refine ⟨?_, ?_, ?_, ?_, ?_, readByte_imageMemory_image himage, rfl⟩
    all_goals
      rw [readWord_imageMemory himage (by decide)]
      decide

/-- Settles O55: every CSR is 0, pc is 0, the memories are empty, and no slot is active. -/
theorem resetIsLegal : Obligations.ResetIsLegal :=
  ⟨⟨rfl, by constructor <;> decide, rfl, rfl⟩, .of_quiet (by constructor <;> decide)⟩

end Sys2Proof.Machine
end

section
/-! PROOFS. The family of spec/47_zfinx.md, apart from rounding: which instructions complete and which trap, what the
model's predicates on data mean, sign injection, classes, comparisons, NaNs, infinities and exact zeros. -/

namespace Sys2Proof.Machine

/-! ## Completion and reserved rounding modes (R361) -/

/-- An instruction with a legal rounding mode writes its operation's result. -/
theorem completesWriting_of_rounding {i : Instr} {s : State} {rd : Reg} {rm : BitVec 3} {r : Rounding}
    {f : Rounding → Word} {v : Word} (hrm : roundingMode rm = some r)
    (h : exec i s = .next (withRounding rm rd f s)) (hv : f r = v) : completesWriting i s rd v :=
  completesWriting_of_exec (h.trans (congrArg _ (withRounding_legal s hrm))) hv

/-- Settles O42: each legal mode is the rounding it names, and each instruction writes its operation's result. -/
theorem floatInstructionsComplete : Obligations.FloatInstructionsComplete := by
  refine ⟨fun s rd rs1 rs2 rs3 rm r hr => ?_, fun s rd rs1 rs2 => ?_⟩
  · have hrm : roundingMode rm = some r := by
      simp only [List.mem_cons, Prod.mk.injEq, List.not_mem_nil, or_false] at hr
      rcases hr with ⟨rfl, rfl⟩ | ⟨rfl, rfl⟩ | ⟨rfl, rfl⟩ | ⟨rfl, rfl⟩ | ⟨rfl, rfl⟩ | ⟨rfl, rfl⟩ <;> rfl
    refine ⟨?_, ?_, ?_, ?_, ?_, ?_, ?_, ?_, ?_, ?_, ?_, ?_, ?_⟩ <;> exact completesWriting_of_rounding hrm rfl rfl
  · refine ⟨?_, ?_, ?_, ?_, ?_⟩ <;> exact completesWriting_of_exec rfl rfl

/-- Settles O43: the two reserved modes are none of R361, and each of the 13 instructions asks for one first. -/
theorem reservedRoundingModeTraps : Obligations.ReservedRoundingModeTraps := by
  intro s rd rs1 rs2 rs3 rm i hrm hi
  have hnone : roundingMode rm = none := by rcases hrm with rfl | rfl <;> rfl
  have trap {f : Rounding → Word} (h : exec i s = .next (withRounding rm rd f s)) : ∃ t, exec i s = .next t ∧
      s.tookException t .illegalInstr s.instWord ∧ t.flags.illegalException = true ∧ s.sameButTrap t := by
    rw [withRounding_reserved s hnone] at h
    refine ⟨_, h, raise_tookException _ _ rfl rfl rfl, ?_, ?_⟩
    · exact (congrArg Flags.illegalException (raise_flags { s with flags.illegalException := true } .illegalInstr
        s.instWord) :)
    · exact (congrArg (fun u : State => { u with flags.illegalException := s.flags.illegalException })
        (raise_sameButTrap .illegalInstr s.instWord (d := { s with flags.illegalException := true })) :)
  simp only [List.mem_cons, List.not_mem_nil, or_false] at hi
  rcases hi with rfl | rfl | rfl | rfl | rfl | rfl | rfl | rfl | rfl | rfl | rfl | rfl | rfl <;> exact trap rfl

/-! ## The kinds of data (R385) -/

section Kinds
variable (v : Word)

theorem isNan_iff : isNan v = true ↔ isNanDatum v := by
  simp [isNan, isNanDatum, fExp, fFrac, ← BitVec.toNat_inj]

theorem isNan_eq_false_iff : isNan v = false ↔ ¬isNanDatum v := by
  rw [← isNan_iff, Bool.not_eq_true]

theorem signedInf_eq (p : Bool) : signedInf p = infOf p := by cases p <;> rfl

theorem signedZero_eq (p : Bool) : signedZero p = zeroOf p := by cases p <;> rfl

theorem fSign_eq : fSign v = decide (2 ^ 31 ≤ v.toNat) := BitVec.msb_eq_decide v

theorem fExp_eq : fExp v = v.toNat / 2 ^ 23 % 2 ^ 8 := by
  simp only [fExp, BitVec.extractLsb'_toNat, Nat.shiftRight_eq_div_pow]

theorem fFrac_eq : fFrac v = v.toNat % 2 ^ 23 := by
  simp only [fFrac, BitVec.extractLsb'_toNat, Nat.shiftRight_zero]

theorem toNat_infOf (p : Bool) : (infOf p).toNat = (if p then 2 ^ 31 else 0) + 255 * 2 ^ 23 := by cases p <;> rfl

theorem toNat_zeroOf (p : Bool) : (zeroOf p).toNat = if p then 2 ^ 31 else 0 := by cases p <;> rfl

/-- An infinity is one of two words. -/
theorem isInf_iff : isInf v = true ↔ v = infOf (fSign v) := by
  have := v.isLt
  rw [← BitVec.toNat_inj, toNat_infOf, fSign_eq]
  simp only [isInf, fExp_eq, fFrac_eq, Bool.and_eq_true, beq_iff_eq, decide_eq_true_eq]
  split <;> omega

/-- A zero is one of two words. -/
theorem isZero_iff : isZero v = true ↔ v = zeroOf (fSign v) := by
  have := v.isLt
  rw [← BitVec.toNat_inj, toNat_zeroOf, fSign_eq]
  simp only [isZero, fExp_eq, fFrac_eq, Bool.and_eq_true, beq_iff_eq, decide_eq_true_eq]
  split <;> omega

theorem isFinite_iff_kinds : isFinite v ↔ isNan v = false ∧ isInf v = false := by
  have he : isFinite v ↔ fExp v ≠ 255 := by simp [isFinite, fExp, ← BitVec.toNat_inj]
  rw [he, isNan, isInf]
  by_cases h : fExp v = 255 <;> by_cases hf : fFrac v = 0 <;> simp [h, hf]

theorem magnitude_eq_zero_iff : magnitude v = 0 ↔ isZero v = true := by
  simp only [magnitude, isZero, Bool.and_eq_true, beq_iff_eq]
  split <;> simp_all

theorem datum_eq_zero_iff : datum v = 0 ↔ isZero v = true := by
  rw [← abs_eq_zero, abs_datum, div_eq_zero_iff, Nat.cast_eq_zero, magnitude_eq_zero_iff]
  simp

end Kinds

/-! ## Sign injection and classes (R367-R369, R379) -/

theorem and_signBit (v : Word) : v &&& 0x80000000#32 = if v.getLsbD 31 then 0x80000000#32 else 0#32 := by
  have hbit (k : Nat) (hk : k < 32) : (0x80000000#32).getLsbD k = decide (k = 31) := by
    revert k; decide
  apply BitVec.eq_of_getLsbD_eq
  intro k hk
  rw [BitVec.getLsbD_and, hbit k hk]
  by_cases h : k = 31
  · subst h; cases v.getLsbD 31 <;> rfl
  · cases v.getLsbD 31 <;> simp [h, hbit k hk]

theorem injectSign_eq (neg : Bool) (a b : Word) (h : b.getLsbD 31 = neg) :
    injectSign neg a = (a &&& 0x7FFFFFFF#32) ||| (b &&& 0x80000000#32) := by
  rw [injectSign, withSign, and_signBit, h]
  cases neg <;> simp

/-- The class bit, by the fields (R379). -/
theorem fClass_eq (v : Word) (e : BitVec 8) (f : BitVec 23) (neg : Bool) (he : e = v.extractLsb' 23 8)
    (hf : f = v.extractLsb' 0 23) (hneg : neg = v.getLsbD 31) : fClass v =
      (if e = 255#8 then
        (if f = 0#23 then (if neg then 1#32 else 128#32) else if f.getLsbD 22 then 512#32 else 256#32)
      else if e = 0#8 then
        (if f = 0#23 then (if neg then 8#32 else 16#32) else if neg then 4#32 else 32#32)
      else if neg then 2#32 else 64#32) := by
  have he255 : fExp v = 0xFF ↔ e = 255#8 := by rw [he]; simp [fExp, ← BitVec.toNat_inj]
  have he0 : fExp v = 0 ↔ e = 0#8 := by rw [he]; simp [fExp, ← BitVec.toNat_inj]
  have hf0 : fFrac v = 0 ↔ f = 0#23 := by rw [hf]; simp [fFrac, ← BitVec.toNat_inj]
  have hquiet : v.getLsbD 22 = f.getLsbD 22 := by rw [hf]; simp
  simp only [fClass, fClassBit, isNan, isInf, isZero, fSign, ← hneg, hquiet, Bool.and_eq_true, beq_iff_eq, bne_iff_ne,
    ne_eq, he255, he0, hf0]
  by_cases hinf : e = 255#8
  · subst hinf
    by_cases hfrac : f = 0#23
    · cases neg <;> simp [hfrac]
    · cases f.getLsbD 22 <;> simp [hfrac]
  · by_cases hzero : e = 0#8
    · by_cases hfrac : f = 0#23 <;> cases neg <;> simp [hzero, hfrac]
    · cases neg <;> simp [hinf, hzero]

/-- Settles O45. -/
theorem signInjectionAndClass : Obligations.SignInjectionAndClass := fun s rd rs1 rs2 =>
  ⟨completesWriting_of_exec rfl (injectSign_eq _ _ _ rfl),
   completesWriting_of_exec rfl (injectSign_eq _ _ _ (by simp [fSign])),
   completesWriting_of_exec rfl (injectSign_eq _ _ _ (by simp [fSign])),
   fun e f neg he hf hneg => completesWriting_of_exec rfl (fClass_eq _ e f neg he hf hneg)⟩

/-! ## Comparisons, minimum and maximum (R370, R371, R376-R378) -/

section Order
variable (a b : Word)

theorem datum_le_iff : datum a ≤ datum b ↔ fValue a ≤ fValue b := by
  rw [datum_eq, datum_eq, div_le_div_iff_of_pos_right (by positivity), Int.cast_le]

theorem datum_lt_iff : datum a < datum b ↔ fValue a < fValue b := by
  rw [← not_le, datum_le_iff, not_le]

theorem datum_eq_iff : datum a = datum b ↔ fValue a = fValue b := by
  rw [le_antisymm_iff, datum_le_iff, datum_le_iff, ← le_antisymm_iff]

variable {a b} (ha : isNan a = false) (hb : isNan b = false)
include ha hb

/-- The minimum of two data that are no NaN (R370). -/
theorem fMin_eq : fMin a b = if fValue a = fValue b then (if fSign a then a else if fSign b then b else a)
    else if fValue a < fValue b then a else b := by
  simp [fMin, ha, hb]

/-- The maximum of two data that are no NaN (R371). -/
theorem fMax_eq : fMax a b = if fValue a = fValue b then (if !fSign a then a else if !fSign b then b else a)
    else if fValue b < fValue a then a else b := by
  simp [fMax, ha, hb]

theorem fMin_mem : fMin a b = a ∨ fMin a b = b := by
  rw [fMin_eq ha hb]
  split_ifs <;> simp

theorem fMax_mem : fMax a b = a ∨ fMax a b = b := by
  rw [fMax_eq ha hb]
  split_ifs <;> simp

theorem datum_fMin : datum (fMin a b) = min (datum a) (datum b) := by
  rw [fMin_eq ha hb]
  split
  · have heq : datum a = datum b := (datum_eq_iff a b).mpr ‹_›
    rw [heq, min_self]
    split_ifs <;> simp [heq]
  · split
    · exact (min_eq_left ((datum_lt_iff a b).mpr ‹_›).le).symm
    · exact (min_eq_right ((datum_le_iff b a).mpr (by omega))).symm

theorem datum_fMax : datum (fMax a b) = max (datum a) (datum b) := by
  rw [fMax_eq ha hb]
  split
  · have heq : datum a = datum b := (datum_eq_iff a b).mpr ‹_›
    rw [heq, max_self]
    split_ifs <;> simp [heq]
  · split
    · exact (max_eq_left ((datum_lt_iff b a).mpr ‹_›).le).symm
    · exact (max_eq_right ((datum_le_iff a b).mpr (by omega))).symm

theorem fSign_fMin_of_eq (h : fValue a = fValue b) : fSign (fMin a b) = (fSign a || fSign b) := by
  rw [fMin_eq ha hb, if_pos h]
  cases hs : fSign a <;> cases hs' : fSign b <;> simp [hs, hs']

theorem fSign_fMax_of_eq (h : fValue a = fValue b) : fSign (fMax a b) = (fSign a && fSign b) := by
  rw [fMax_eq ha hb, if_pos h]
  cases hs : fSign a <;> cases hs' : fSign b <;> simp [hs, hs']

end Order

/-- Settles O46: comparisons look for a NaN first, and then compare the values in units. -/
theorem comparisonsOrderData : Obligations.ComparisonsOrderData := by
  intro a b
  refine ⟨fun h => ?_, fun ha hb => ?_⟩
  · rw [← isNan_iff, ← isNan_iff] at h
    rcases h with h | h <;> simp [fEq, fLt, fLe, h]
  · rw [← isNan_eq_false_iff] at ha hb
    refine ⟨by simp [fEq, ha, hb, datum_eq_iff], by simp [fLt, ha, hb, datum_lt_iff], ?_, fMin_mem ha hb, fMax_mem ha hb,
      datum_fMin ha hb, datum_fMax ha hb, fun h => ?_⟩
    · rw [Bool.eq_iff_iff]
      simp [fEq, fLt, fLe, ha, hb, le_iff_lt_or_eq]
    · rw [datum_eq_iff] at h
      exact ⟨fSign_fMin_of_eq ha hb h, fSign_fMax_of_eq ha hb h⟩

end Sys2Proof.Machine
end

section
/-! PROOFS. The family of spec/47_zfinx.md: the results that are NaN, that come from an infinity or a zero divisor, or
that are an exact zero (R362-R375, R380, R385, R386). -/

namespace Sys2Proof.Machine

/-! ## The kinds of the special data -/

@[simp] theorem isNan_infOf (p : Bool) : isNan (infOf p) = false := by cases p <;> rfl
@[simp] theorem isInf_infOf (p : Bool) : isInf (infOf p) = true := by cases p <;> rfl
@[simp] theorem isZero_infOf (p : Bool) : isZero (infOf p) = false := by cases p <;> rfl
@[simp] theorem fSign_infOf (p : Bool) : fSign (infOf p) = p := by cases p <;> rfl
@[simp] theorem isNan_zeroOf (p : Bool) : isNan (zeroOf p) = false := by cases p <;> rfl
@[simp] theorem isInf_zeroOf (p : Bool) : isInf (zeroOf p) = false := by cases p <;> rfl
@[simp] theorem isZero_zeroOf (p : Bool) : isZero (zeroOf p) = true := by cases p <;> rfl
@[simp] theorem fSign_zeroOf (p : Bool) : fSign (zeroOf p) = p := by cases p <;> rfl

section Negate
variable (v : Word)

theorem fExp_fNegate : fExp (fNegate v) = fExp v := by
  unfold fExp fNegate
  congr 1
  apply BitVec.eq_of_getLsbD_eq
  intro i hi
  have hbit : (0x80000000#32).getLsbD (23 + i) = false := by
    interval_cases i <;> rfl
  simp [hi, hbit]

theorem fFrac_fNegate : fFrac (fNegate v) = fFrac v := by
  unfold fFrac fNegate
  congr 1
  apply BitVec.eq_of_getLsbD_eq
  intro i hi
  have hbit : (0x80000000#32).getLsbD i = false := by
    interval_cases i <;> rfl
  simp [hi, hbit]

@[simp] theorem fSign_fNegate : fSign (fNegate v) = !fSign v := by simp [fSign, fNegate]
@[simp] theorem isNan_fNegate : isNan (fNegate v) = isNan v := by simp [isNan, fExp_fNegate, fFrac_fNegate]
@[simp] theorem isInf_fNegate : isInf (fNegate v) = isInf v := by simp [isInf, fExp_fNegate, fFrac_fNegate]
@[simp] theorem isZero_fNegate : isZero (fNegate v) = isZero v := by simp [isZero, fExp_fNegate, fFrac_fNegate]
@[simp] theorem magnitude_fNegate : magnitude (fNegate v) = magnitude v := by
  simp [magnitude, fExp_fNegate, fFrac_fNegate]

@[simp] theorem fValue_fNegate : fValue (fNegate v) = -fValue v := by
  unfold fValue
  rw [fSign_fNegate, magnitude_fNegate]
  cases fSign v <;> simp

@[simp] theorem fNegate_infOf (p : Bool) : fNegate (infOf p) = infOf !p := by cases p <;> rfl

end Negate

/-! ## No NaN but the canonical one (R385) -/

theorem isNan_canonicalNan : isNan canonicalNan = true := rfl

theorem isNan_of_isFinite {v : Word} (h : isFinite v) : isNan v = false := ((isFinite_iff_kinds v).mp h).1

section NotNan
variable (rm : Rounding) (neg : Bool)

theorem isNan_overflowResult : isNan (overflowResult rm neg) = false := by
  cases rm <;> cases neg <;> rfl

theorem isNan_assemble {q e : Nat} (p : Position) (hq : q < 2 ^ 24) (he : 2 ^ 23 ≤ q ∨ e = 0) :
    isNan (assemble rm neg q e p) = false := by
  rw [assemble_eq rm neg p hq he]
  split
  · exact isNan_overflowResult rm neg
  · exact isNan_of_isFinite (isFinite_withSign neg (by omega))

theorem isNan_roundRatio (num den : Nat) : isNan (roundRatio rm neg num den) = false := by
  have hb := scale_bounds (num / den)
  rw [Nat.div_div_eq_div_mul] at hb
  exact isNan_assemble rm neg _ hb.1 hb.2

theorem isNan_roundSum (negA negB : Bool) (num : ℤ) (den : Nat) : isNan (roundSum rm negA negB num den) = false := by
  unfold roundSum zeroSum
  split
  · split <;> simp [signedZero_eq]
  · exact isNan_roundRatio ..

/-- A result that is the canonical NaN or no NaN at all. -/
def nanCanonical (v : Word) : Prop := isNan v = false ∨ v = canonicalNan

variable (a b c : Word)

theorem fAdd_nanCanonical : nanCanonical (fAdd rm a b) := by
  unfold fAdd
  split_ifs <;> simp_all [nanCanonical, isNan_roundSum]

theorem fMul_nanCanonical : nanCanonical (fMul rm a b) := by
  unfold fMul
  dsimp only
  split_ifs <;> simp_all [nanCanonical, isNan_roundRatio, signedInf_eq, signedZero_eq]

theorem fDiv_nanCanonical : nanCanonical (fDiv rm a b) := by
  unfold fDiv
  dsimp only
  split_ifs <;> simp_all [nanCanonical, isNan_roundRatio, signedInf_eq, signedZero_eq]

theorem fSqrt_nanCanonical : nanCanonical (fSqrt rm a) := by
  have hb := scale_bounds (isqrt (magnitude a * 2 ^ 149))
  unfold fSqrt
  dsimp only
  split_ifs <;> simp_all [nanCanonical, isNan_assemble]

theorem fMulAdd_nanCanonical : nanCanonical (fMulAdd rm a b c) := by
  unfold fMulAdd
  dsimp only
  split_ifs <;> simp_all [nanCanonical, isNan_roundSum, signedInf_eq]

theorem fOfInt_nanCanonical (n : ℤ) : nanCanonical (fOfInt rm n) := by
  unfold fOfInt
  split
  · exact .inl rfl
  · exact .inl (isNan_roundRatio ..)

theorem fMin_nanCanonical : nanCanonical (fMin a b) := by
  unfold fMin
  split_ifs <;> simp_all [nanCanonical]

theorem fMax_nanCanonical : nanCanonical (fMax a b) := by
  unfold fMax
  split_ifs <;> simp_all [nanCanonical]

end NotNan

/-! ## Where the result is the canonical NaN (R362-R366, R370-R373, R380) -/

section NanOperand
variable {a : Word} (h : isNan a = true) (rm : Rounding) (b c : Word)
include h

theorem fAdd_nan_left : fAdd rm a b = canonicalNan := by simp [fAdd, h]
theorem fAdd_nan_right : fAdd rm b a = canonicalNan := by simp [fAdd, h]
theorem fMul_nan_left : fMul rm a b = canonicalNan := by simp [fMul, h]
theorem fMul_nan_right : fMul rm b a = canonicalNan := by simp [fMul, h]
theorem fDiv_nan_left : fDiv rm a b = canonicalNan := by simp [fDiv, h]
theorem fDiv_nan_right : fDiv rm b a = canonicalNan := by simp [fDiv, h]
theorem fSqrt_nan : fSqrt rm a = canonicalNan := by simp [fSqrt, h]
theorem fMulAdd_nan_first : fMulAdd rm a b c = canonicalNan := by simp [fMulAdd, h]
theorem fMulAdd_nan_second : fMulAdd rm b a c = canonicalNan := by simp [fMulAdd, h]
theorem fMulAdd_nan_third : fMulAdd rm b c a = canonicalNan := by simp [fMulAdd, h]

end NanOperand

/-- A NaN operand gives the canonical NaN; to minimum and maximum, the other operand where that is none. -/
theorem nanOperand_results {a : Word} (h : isNan a = true) (r : Rounding) (b c : Word) :
    (∀ v ∈ [fAdd r a b, fAdd r b a, fSub r a b, fSub r b a, fMul r a b, fMul r b a, fDiv r a b, fDiv r b a, fSqrt r a,
      fMulAdd r a b c, fMulAdd r b a c, fMulAdd r b c a], v = 0x7FC00000#32) ∧
    (isNanDatum b → fMin a b = 0x7FC00000#32 ∧ fMax a b = 0x7FC00000#32) ∧
    (¬isNanDatum b → fMin a b = b ∧ fMin b a = b ∧ fMax a b = b ∧ fMax b a = b) ∧
    fToSigned r a = 0x7FFFFFFF#32 ∧ fToUnsigned r a = 0xFFFFFFFF#32 := by
  have hneg : isNan (fNegate a) = true := by simp [h]
  refine ⟨?_, fun hb => ?_, fun hb => ?_, by simp [fToSigned, h], by simp [fToUnsigned, h]⟩
  · simp only [List.forall_mem_cons, List.not_mem_nil, false_implies, implies_true, and_true]
    exact ⟨fAdd_nan_left h .., fAdd_nan_right h .., fAdd_nan_left h .., fAdd_nan_right hneg .., fMul_nan_left h ..,
      fMul_nan_right h .., fDiv_nan_left h .., fDiv_nan_right h .., fSqrt_nan h .., fMulAdd_nan_first h ..,
      fMulAdd_nan_second h .., fMulAdd_nan_third h ..⟩
  · rw [← isNan_iff] at hb
    exact ⟨by simp [fMin, h, hb, canonicalNan], by simp [fMax, h, hb, canonicalNan]⟩
  · rw [← isNan_eq_false_iff] at hb
    simp [fMin, fMax, h, hb]

/-- Infinities that cancel, zero times infinity, 0/0 and infinity over infinity. -/
theorem invalid_results (r : Rounding) (c : Word) (p q : Bool) :
    ∀ v ∈ [fAdd r (infOf p) (infOf !p), fSub r (infOf p) (infOf p), fMul r (infOf p) (zeroOf q),
      fMul r (zeroOf q) (infOf p), fDiv r (infOf p) (infOf q), fDiv r (zeroOf p) (zeroOf q),
      fMulAdd r (infOf p) (zeroOf q) c, fMulAdd r (zeroOf q) (infOf p) c], v = 0x7FC00000#32 := by
  simp [fAdd, fSub, fMul, fDiv, fMulAdd, canonicalNan]

theorem fSqrt_negative {a : Word} (r : Rounding) (hs : fSign a = true) (hz : a ≠ zeroOf true) :
    fSqrt r a = canonicalNan := by
  have hzero : isZero a = false := by
    rw [← Bool.not_eq_true, isZero_iff, hs]
    exact hz
  simp [fSqrt, hzero, hs]

/-- Neither zero is a zero of the data. -/
theorem isZero_eq_false {b : Word} (h : b ≠ zeroOf false) (h' : b ≠ zeroOf true) : isZero b = false := by
  rw [← Bool.not_eq_true, isZero_iff]
  cases fSign b
  · exact h
  · exact h'

/-- An infinite product, and an infinite addend of the other sign. -/
theorem fMulAdd_cancel {b : Word} (r : Rounding) (p : Bool) (hz : isZero b = false) :
    fMulAdd r (infOf p) b (infOf (p == fSign b)) = canonicalNan ∧
      fMulAdd r b (infOf p) (infOf (p == fSign b)) = canonicalNan := by
  cases p <;> cases hs : fSign b <;> simp [fMulAdd, hz, hs]

theorem nanResults_holds (r : Rounding) (a b c : Word) : nanResults r a b c :=
  ⟨fun h => nanOperand_results ((isNan_iff a).mpr h) r b c, fun p q => invalid_results r c p q,
    fSqrt_negative r, fun p _ hz hz' => fMulAdd_cancel r p (isZero_eq_false hz hz')⟩

/-! ## Infinite operands and zero divisors (R362-R366, R372, R373, R380) -/

/-- A datum other than one infinity is no infinity of its sign. -/
theorem not_isInf_of_ne {b : Word} {q : Bool} (h : b ≠ infOf q) (hs : fSign b = q) : isInf b = false := by
  rw [← Bool.not_eq_true, isInf_iff, hs]
  exact h

section Infinity
variable {b : Word} (r : Rounding) (p : Bool) (hb : isNan b = false)
include hb

theorem fAdd_infinity (h : b ≠ infOf !p) : fAdd r (infOf p) b = infOf p ∧ fAdd r b (infOf p) = infOf p := by
  by_cases hs : fSign b = p
  · cases hi : isInf b with
    | false => simp [fAdd, hb, hi]
    | true =>
      have heq := (isInf_iff b).mp hi
      rw [hs] at heq
      simp [heq, fAdd]
  · have hs' : fSign b = !p := by cases hb' : fSign b <;> cases p <;> simp_all
    simp [fAdd, hb, not_isInf_of_ne h hs']

theorem fMul_infinity (hz : isZero b = false) :
    fMul r (infOf p) b = infOf (p != fSign b) ∧ fMul r b (infOf p) = infOf (p != fSign b) := by
  have hcomm : (fSign b != p) = (p != fSign b) := Bool.xor_comm ..
  simp [fMul, hb, hz, signedInf_eq, hcomm]

theorem fMulAdd_infinity {c : Word} (hz : isZero b = false) (hc : isNan c = false)
    (h : c ≠ infOf (p == fSign b)) : fMulAdd r (infOf p) b c = infOf (p != fSign b) ∧
      fMulAdd r b (infOf p) c = infOf (p != fSign b) := by
  have hcomm : (fSign b != p) = (p != fSign b) := Bool.xor_comm ..
  have hcancel : (isInf c && fSign c != (p != fSign b)) = false := by
    by_cases hs : fSign c = (p == fSign b)
    · simp [not_isInf_of_ne h hs]
    · have : fSign c = (p != fSign b) := by revert hs; cases fSign c <;> cases p <;> cases fSign b <;> decide
      simp [this]
  simp [fMulAdd, hb, hc, hz, signedInf_eq, hcomm, hcancel]

theorem fSub_infinity (h : b ≠ infOf p) : fSub r (infOf p) b = infOf p ∧ fSub r b (infOf p) = infOf !p := by
  have hne : fNegate b ≠ infOf !p := fun e => h (by
    rw [← fNegate_infOf] at e
    simpa [fNegate] using e)
  have hright := fAdd_infinity r (!p) hb (by simpa using h)
  exact ⟨(fAdd_infinity r p (by simp [hb]) hne).1, by rw [fSub, fNegate_infOf]; exact hright.2⟩

end Infinity

section FiniteAndInfinity
variable {a b : Word} (r : Rounding) (p : Bool) (hb : isFinite b)
include hb

theorem fDiv_infinity :
    fDiv r (infOf p) b = infOf (p != fSign b) ∧ fDiv r b (infOf p) = zeroOf (fSign b != p) := by
  obtain ⟨hnan, hinf⟩ := (isFinite_iff_kinds b).mp hb
  simp [fDiv, hnan, hinf, signedInf_eq, signedZero_eq]

theorem fDiv_zero (hz : isZero b = false) : fDiv r b (zeroOf p) = infOf (fSign b != p) := by
  obtain ⟨hnan, hinf⟩ := (isFinite_iff_kinds b).mp hb
  simp [fDiv, hnan, hinf, hz, signedInf_eq]

theorem fMulAdd_infinite_addend (ha : isFinite a) : fMulAdd r a b (infOf p) = infOf p := by
  obtain ⟨hnan, hinf⟩ := (isFinite_iff_kinds b).mp hb
  obtain ⟨hnan', hinf'⟩ := (isFinite_iff_kinds a).mp ha
  simp [fMulAdd, hnan, hinf, hnan', hinf']

end FiniteAndInfinity

theorem infinityResults_holds (r : Rounding) (p : Bool) (a b c : Word) : infinityResults r p a b c := by
  refine ⟨fun hb => ?_, fun hb => ?_, by simp [fSqrt], by simp [fToSigned], by simp [fToUnsigned]⟩
  · rw [← isNan_eq_false_iff] at hb
    refine ⟨fAdd_infinity r p hb, fSub_infinity r p hb, fun hz hz' => ?_⟩
    have hzero := isZero_eq_false hz hz'
    obtain ⟨hleft, hright⟩ := fMul_infinity r p hb hzero
    exact ⟨hleft, hright, fun hc => fMulAdd_infinity r p hb hzero ((isNan_eq_false_iff c).mpr hc)⟩
  · obtain ⟨hleft, hright⟩ := fDiv_infinity r p hb
    exact ⟨hleft, hright, fun hz hz' => fDiv_zero r p hb (isZero_eq_false hz hz'), fMulAdd_infinite_addend r p hb⟩

/-! ## Finite operands -/

section Finite
variable {a b c : Word} (r : Rounding)

theorem fAdd_finite (ha : isFinite a) (hb : isFinite b) :
    fAdd r a b = roundSum r (fSign a) (fSign b) (fValue a + fValue b) 1 := by
  obtain ⟨hna, hia⟩ := (isFinite_iff_kinds a).mp ha
  obtain ⟨hnb, hib⟩ := (isFinite_iff_kinds b).mp hb
  simp [fAdd, hna, hia, hnb, hib]

theorem isFinite_fNegate (hb : isFinite b) : isFinite (fNegate b) := by
  simpa [isFinite_iff_kinds] using hb

theorem fSub_finite (ha : isFinite a) (hb : isFinite b) :
    fSub r a b = roundSum r (fSign a) (!fSign b) (fValue a - fValue b) 1 := by
  rw [fSub, fAdd_finite r ha (isFinite_fNegate hb), fSign_fNegate, fValue_fNegate, sub_eq_add_neg]

theorem fMul_finite (ha : isFinite a) (hb : isFinite b) :
    fMul r a b = if isZero a || isZero b then zeroOf (fSign a != fSign b)
      else roundRatio r (fSign a != fSign b) (magnitude a * magnitude b) (2 ^ 149) := by
  obtain ⟨hna, hia⟩ := (isFinite_iff_kinds a).mp ha
  obtain ⟨hnb, hib⟩ := (isFinite_iff_kinds b).mp hb
  simp [fMul, hna, hia, hnb, hib, signedZero_eq]

theorem fDiv_finite (ha : isFinite a) (hb : isFinite b) (hz : isZero b = false) :
    fDiv r a b = if isZero a then zeroOf (fSign a != fSign b)
      else roundRatio r (fSign a != fSign b) (magnitude a * 2 ^ 149) (magnitude b) := by
  obtain ⟨hna, hia⟩ := (isFinite_iff_kinds a).mp ha
  obtain ⟨hnb, hib⟩ := (isFinite_iff_kinds b).mp hb
  simp [fDiv, hna, hia, hnb, hib, hz, signedZero_eq]

theorem fMulAdd_finite (ha : isFinite a) (hb : isFinite b) (hc : isFinite c) :
    fMulAdd r a b c = roundSum r (fSign a != fSign b) (fSign c) (fValue a * fValue b + fValue c * 2 ^ 149)
      (2 ^ 149) := by
  obtain ⟨hna, hia⟩ := (isFinite_iff_kinds a).mp ha
  obtain ⟨hnb, hib⟩ := (isFinite_iff_kinds b).mp hb
  obtain ⟨hnc, hic⟩ := (isFinite_iff_kinds c).mp hc
  simp [fMulAdd, hna, hia, hnb, hib, hnc, hic]

end Finite

/-! ## Exact zeros (R366, R374, R386) -/

/-- The sign of an exact zero sum. -/
theorem roundSum_zero (r : Rounding) (p q : Bool) (den : Nat) :
    roundSum r p q 0 den = zeroOf (if p = q then q else decide (r = .rdn)) := by
  rw [roundSum, if_pos rfl, zeroSum, signedZero_eq, signedZero_eq]
  by_cases h : p = q
  · simp [h]
  · simp only [beq_iff_eq, h, if_false]
    cases r <;> rfl

section ExactZero
variable (a b c : Word)

theorem datum_add : datum a + datum b = ((fValue a + fValue b : ℤ) : ℚ) / 2 ^ 149 := by
  rw [datum_eq, datum_eq, ← add_div, Int.cast_add]

theorem datum_sub : datum a - datum b = ((fValue a - fValue b : ℤ) : ℚ) / 2 ^ 149 := by
  rw [datum_eq, datum_eq, ← sub_div, Int.cast_sub]

theorem datum_mulAdd : datum a * datum b + datum c =
    ((fValue a * fValue b + fValue c * 2 ^ 149 : ℤ) : ℚ) / 2 ^ 149 / 2 ^ 149 := by
  have hunit : (2 : ℚ) ^ 149 ≠ 0 := by positivity
  rw [datum_eq, datum_eq, datum_eq]
  simp only [Int.cast_add, Int.cast_mul, Int.cast_pow, Int.cast_ofNat]
  generalize (2 : ℚ) ^ 149 = u at *
  field_simp

/-- A number of units is 0 only where the number is. -/
theorem units_eq_zero_iff (n : ℤ) : (n : ℚ) / 2 ^ 149 = 0 ↔ n = 0 := by
  rw [div_eq_zero_iff, or_iff_left (by positivity), Int.cast_eq_zero]

end ExactZero

theorem zeroResults_holds (r : Rounding) (a b c : Word) : zeroResults r a b c := by
  refine ⟨fun ha hb => ⟨fun h => ?_, fun h => ?_, fun h => ?_, fun h h' => ?_, fun hc h => ?_⟩, fun h => ?_, rfl⟩
  · rw [datum_add, units_eq_zero_iff] at h
    rw [fAdd_finite r ha hb, h, roundSum_zero]
    unfold fSign
    cases a.getLsbD 31 <;> cases b.getLsbD 31 <;> rfl
  · rw [datum_sub, units_eq_zero_iff] at h
    rw [fSub_finite r ha hb, h, roundSum_zero]
    unfold fSign
    cases a.getLsbD 31 <;> cases b.getLsbD 31 <;> rfl
  · rw [datum_eq_zero_iff, datum_eq_zero_iff] at h
    rw [fMul_finite r ha hb, if_pos (by simpa using h)]
    rfl
  · rw [datum_eq_zero_iff] at h
    rw [fDiv_finite r ha hb (by simpa [datum_eq_zero_iff] using h'), if_pos h]
    rfl
  · rw [datum_mulAdd, div_eq_zero_iff, or_iff_left (by positivity), units_eq_zero_iff] at h
    rw [fMulAdd_finite r ha hb hc, h, roundSum_zero]
    rfl
  · rw [datum_eq_zero_iff] at h
    have hnan : isNan a = false := by rw [(isZero_iff a).mp h]; exact isNan_zeroOf _
    simp [fSqrt, hnan, h]

/-- Settles O44: no operation makes another NaN, and each case of the rules is a branch that looks at kinds and signs. -/
theorem nanInfinityAndZeroResults : Obligations.NanInfinityAndZeroResults := by
  intro r a b c
  refine ⟨?_, nanResults_holds r a b c, fun p => infinityResults_holds r p a b c, zeroResults_holds r a b c⟩
  have canonical {v : Word} (h : nanCanonical v) (hv : isNanDatum v) : v = 0x7FC00000#32 :=
    h.resolve_left (by rw [(isNan_iff v).mpr hv]; decide)
  simp only [List.forall_mem_cons, List.not_mem_nil, false_implies, implies_true, and_true]
  exact ⟨canonical (fAdd_nanCanonical ..), canonical (fAdd_nanCanonical ..), canonical (fMul_nanCanonical ..),
    canonical (fDiv_nanCanonical ..), canonical (fSqrt_nanCanonical ..), canonical (fMulAdd_nanCanonical ..),
    canonical (fOfInt_nanCanonical ..), canonical (fMin_nanCanonical ..), canonical (fMax_nanCanonical ..)⟩

end Sys2Proof.Machine
end

section
/-! PROOFS. The family of spec/47_zfinx.md: every result that is rounded from a nonzero real number is the datum that R386
selects, and the conversions to integers round by the same rule and clamp (R362-R366, R372-R375, R380). -/

namespace Sys2Proof.Machine

/-! ## The exact values of the operations, in units -/

section Exact
variable (a b c : Word)

theorem datum_real : (datum a : ℝ) = exactOf (fSign a) (magnitude a) := by
  rw [datum_exactOf, magnitude_eq]
  rfl

theorem exactOf_mul (p q : Bool) (x y : ℝ) : exactOf p x * exactOf q y = exactOf (p != q) (x * y / 2 ^ 149) := by
  have hunit : (2 : ℝ) ^ 149 ≠ 0 := by positivity
  unfold exactOf
  generalize (2 : ℝ) ^ 149 = u at *
  cases p <;> cases q <;> simp <;> field_simp

theorem exactOf_div (p q : Bool) (x y : ℝ) : exactOf p x / exactOf q y = exactOf (p != q) (x * 2 ^ 149 / y) := by
  have hunit : (2 : ℝ) ^ 149 ≠ 0 := by positivity
  unfold exactOf
  generalize (2 : ℝ) ^ 149 = u at *
  cases p <;> cases q <;> simp <;> field_simp

theorem sqrt_exactOf {x : ℝ} (hx : 0 ≤ x) : Real.sqrt (exactOf false x) = exactOf false (Real.sqrt (x * 2 ^ 149)) := by
  have hunit : (0 : ℝ) < 2 ^ 149 := by positivity
  unfold exactOf
  generalize (2 : ℝ) ^ 149 = u at *
  simp only [Bool.false_eq_true, if_false, one_mul]
  rw [Real.sqrt_div hx, Real.sqrt_mul hx, div_eq_div_iff (by positivity) hunit.ne', mul_assoc, Real.mul_self_sqrt hunit.le]

theorem magnitude_lt {a : Word} (h : isFinite a) : magnitude a < 2 ^ 277 := by
  rw [magnitude_eq, ← gridPoint_infinity]
  exact gridPoint_strictMono ((isFinite_iff a).mp h)

end Exact

/-! ## One rounding of the exact value (R386) -/

section Rounds
variable {a b c : Word} (r : Rounding)

theorem magnitude_pos {a : Word} (h : isZero a = false) : 0 < magnitude a := by
  rw [Nat.pos_iff_ne_zero, ne_eq, magnitude_eq_zero_iff, h]
  decide

theorem isZero_of_datum_ne_zero {a : Word} (h : (datum a : ℝ) ≠ 0) : isZero a = false := by
  rw [← Bool.not_eq_true, ← datum_eq_zero_iff]
  exact_mod_cast h

theorem roundSum_units {num : ℤ} {X : ℝ} (p q : Bool) (hX : X = (num : ℝ) / 2 ^ 149) (h : X ≠ 0) :
    roundsTo r X (roundSum r p q num 1) := by
  have hnum : num ≠ 0 := by rintro rfl; simp at hX; exact h hX
  have := roundSum_roundsTo r p q hnum Nat.one_pos
  rwa [Nat.cast_one, div_one, ← hX] at this

theorem fAdd_roundsTo (ha : isFinite a) (hb : isFinite b) (h : (datum a + datum b : ℝ) ≠ 0) :
    roundsTo r (datum a + datum b) (fAdd r a b) := by
  rw [fAdd_finite r ha hb]
  refine roundSum_units r _ _ ?_ h
  exact_mod_cast congrArg (Rat.cast (K := ℝ)) (datum_add a b)

theorem fSub_roundsTo (ha : isFinite a) (hb : isFinite b) (h : (datum a - datum b : ℝ) ≠ 0) :
    roundsTo r (datum a - datum b) (fSub r a b) := by
  rw [fSub_finite r ha hb]
  refine roundSum_units r _ _ ?_ h
  exact_mod_cast congrArg (Rat.cast (K := ℝ)) (datum_sub a b)

theorem fMul_roundsTo (ha : isFinite a) (hb : isFinite b) (h : (datum a * datum b : ℝ) ≠ 0) :
    roundsTo r (datum a * datum b) (fMul r a b) := by
  have hza := isZero_of_datum_ne_zero (left_ne_zero_of_mul h)
  have hzb := isZero_of_datum_ne_zero (right_ne_zero_of_mul h)
  have hround := roundRatio_roundsTo r (fSign a != fSign b) (Nat.mul_pos (magnitude_pos hza) (magnitude_pos hzb))
    (den := 2 ^ 149) (by positivity)
  rw [fMul_finite r ha hb, if_neg (by simp [hza, hzb]), datum_real, datum_real, exactOf_mul]
  rwa [Nat.cast_mul, Nat.cast_pow, Nat.cast_ofNat] at hround

theorem fDiv_roundsTo (ha : isFinite a) (hb : isFinite b) (h : (datum a / datum b : ℝ) ≠ 0) :
    roundsTo r (datum a / datum b) (fDiv r a b) := by
  obtain ⟨hda, hdb⟩ := div_ne_zero_iff.mp h
  have hza := isZero_of_datum_ne_zero hda
  have hzb := isZero_of_datum_ne_zero hdb
  have hround := roundRatio_roundsTo r (fSign a != fSign b)
    (Nat.mul_pos (magnitude_pos hza) (Nat.two_pow_pos 149)) (magnitude_pos hzb)
  rw [fDiv_finite r ha hb hzb, if_neg (by simp [hza]), datum_real, datum_real, exactOf_div]
  rwa [Nat.cast_mul, Nat.cast_pow, Nat.cast_ofNat] at hround

theorem fMulAdd_roundsTo (ha : isFinite a) (hb : isFinite b) (hc : isFinite c)
    (h : (datum a * datum b + datum c : ℝ) ≠ 0) : roundsTo r (datum a * datum b + datum c) (fMulAdd r a b c) := by
  have hX : (datum a * datum b + datum c : ℝ) =
      ((fValue a * fValue b + fValue c * 2 ^ 149 : ℤ) : ℝ) / (2 ^ 149 : ℕ) / 2 ^ 149 := by
    have := congrArg (Rat.cast (K := ℝ)) (datum_mulAdd a b c)
    simp only [Rat.cast_add, Rat.cast_mul, Rat.cast_div, Rat.cast_intCast, Rat.cast_pow, Rat.cast_ofNat] at this
    rw [this, Nat.cast_pow, Nat.cast_ofNat]
  have hnum : fValue a * fValue b + fValue c * 2 ^ 149 ≠ 0 := fun e => h (by rw [hX, e]; simp)
  rw [fMulAdd_finite r ha hb hc, hX]
  exact roundSum_roundsTo r _ _ hnum (Nat.two_pow_pos 149)

theorem fSqrt_roundsTo (ha : isFinite a) (h : Real.sqrt (datum a) ≠ 0) :
    roundsTo r (Real.sqrt (datum a)) (fSqrt r a) := by
  obtain ⟨hnan, hinf⟩ := (isFinite_iff_kinds a).mp ha
  have hpos : (0 : ℝ) < datum a := Real.sqrt_ne_zero'.mp h
  have hzero := isZero_of_datum_ne_zero hpos.ne'
  have hsign : fSign a = false := by
    cases hs : fSign a with
    | false => rfl
    | true =>
      rw [datum_real, hs] at hpos
      have := (exactOf_neg_iff true (Nat.cast_pos.mpr (magnitude_pos hzero))).mpr rfl
      linarith
  have hlt : magnitude a * 2 ^ 149 < 2 ^ 428 := by
    have := magnitude_lt ha
    omega
  have hround := assemble_sqrt_roundsTo r (Nat.mul_pos (magnitude_pos hzero) (Nat.two_pow_pos 149)) hlt
  rw [datum_real, hsign, sqrt_exactOf (Nat.cast_nonneg _)]
  rw [Nat.cast_mul, Nat.cast_pow, Nat.cast_ofNat] at hround
  simpa [fSqrt, hnan, hinf, hzero, hsign] using hround

theorem fOfInt_roundsTo {n : ℤ} (h : (n : ℝ) ≠ 0) : roundsTo r n (fOfInt r n) := by
  have hn : n ≠ 0 := by exact_mod_cast h
  have hround := roundRatio_roundsTo r (decide (n < 0))
    (Nat.mul_pos (Int.natAbs_pos.mpr hn) (Nat.two_pow_pos 149)) Nat.one_pos
  have hX : exactOf (decide (n < 0)) (((n.natAbs * 2 ^ 149 : ℕ) : ℝ) / (1 : ℕ)) = n := by
    rw [intCast_sign_natAbs n]
    simp only [exactOf, Nat.cast_mul, Nat.cast_pow, Nat.cast_ofNat, Nat.cast_one, div_one]
    rw [← mul_assoc, mul_div_cancel_right₀ _ (by positivity)]
  rw [fOfInt, if_neg hn]
  rwa [hX] at hround

/-- Every operation rounds its exact value, whatever the mode. -/
theorem exactResult_roundsTo {w v : Word} {X : ℝ} (ha : isFinite a) (hb : isFinite b) (hc : isFinite c)
    (h : exactResult r a b c w v X) (hX : X ≠ 0) : roundsTo r X v := by
  simp only [exactResult, List.mem_cons, Prod.mk.injEq, List.not_mem_nil, or_false] at h
  rcases h with ⟨rfl, rfl⟩ | ⟨rfl, rfl⟩ | ⟨rfl, rfl⟩ | ⟨rfl, rfl⟩ | ⟨rfl, rfl⟩ | ⟨rfl, rfl⟩ | ⟨rfl, rfl⟩ | ⟨rfl, rfl⟩
  · exact fAdd_roundsTo r ha hb hX
  · exact fSub_roundsTo r ha hb hX
  · exact fMul_roundsTo r ha hb hX
  · exact fDiv_roundsTo r ha hb hX
  · exact fSqrt_roundsTo r ha hX
  · exact fMulAdd_roundsTo r ha hb hc hX
  · exact fOfInt_roundsTo r hX
  · exact fOfInt_roundsTo r (n := w.toNat) hX

end Rounds

/-! ## Conversion to an integer (R372, R373) -/

section ToInt
variable (a : Word)

/-- A finite datum converts to its rounded integer, clamped. -/
theorem fToSigned_finite {a : Word} (r : Rounding) (ha : isFinite a) :
    fToSigned r a = clampSigned (roundToInt r a) := by
  obtain ⟨hnan, hinf⟩ := (isFinite_iff_kinds a).mp ha
  simp only [fToSigned, hnan, hinf, Bool.false_eq_true, if_false, clampSigned]
  split
  · rw [min_eq_right (by omega)]
    rfl
  · split
    · rw [min_eq_left (by omega), max_eq_left (by omega)]
      rfl
    · rw [min_eq_left (by omega), max_eq_right (by omega)]

theorem fToUnsigned_finite {a : Word} (r : Rounding) (ha : isFinite a) :
    fToUnsigned r a = clampUnsigned (roundToInt r a) := by
  obtain ⟨hnan, hinf⟩ := (isFinite_iff_kinds a).mp ha
  simp only [fToUnsigned, hnan, hinf, Bool.false_eq_true, if_false, clampUnsigned]
  split
  · rw [min_eq_right (by omega)]
    rfl
  · split
    · rw [min_eq_left (by omega), max_eq_left (by omega)]
      rfl
    · rw [min_eq_left (by omega), max_eq_right (by omega)]

theorem floor_datum : ⌊datum a⌋ = fValue a / 2 ^ 149 := by
  rw [datum_eq]
  exact_mod_cast Rat.floor_intCast_div_natCast (fValue a) (2 ^ 149)

theorem ceil_datum : ⌈datum a⌉ = -(-fValue a / 2 ^ 149) := by
  rw [datum_eq]
  exact_mod_cast Rat.ceil_intCast_div_natCast (fValue a) (2 ^ 149)

theorem datum_neg_iff : datum a < 0 ↔ fValue a < 0 := by
  rw [datum_eq, div_lt_iff₀ (by positivity), zero_mul]
  exact_mod_cast Iff.rfl

/-- Rounding down, up and toward zero, in units (R361). -/
theorem roundToInt_rdn : roundToInt .rdn a = ⌊datum a⌋ := by
  rw [floor_datum]
  unfold roundToInt roundedMagnitude positionOf fValue
  cases fSign a <;> split_ifs <;> simp_all [roundsAway] <;> omega

theorem roundToInt_rup : roundToInt .rup a = ⌈datum a⌉ := by
  rw [ceil_datum]
  unfold roundToInt roundedMagnitude positionOf fValue
  cases fSign a <;> split_ifs <;> simp_all [roundsAway] <;> omega

theorem roundToInt_rtz : roundToInt .rtz a = if datum a < 0 then ⌈datum a⌉ else ⌊datum a⌋ := by
  rw [ceil_datum, floor_datum]
  simp only [datum_neg_iff]
  unfold roundToInt roundedMagnitude positionOf fValue
  cases fSign a <;> split_ifs <;> simp_all [roundsAway] <;> omega

/-- The size of the integer a finite datum rounds to. -/
def roundedSize (r : Rounding) (a : Word) : Nat :=
  roundedMagnitude r (fSign a) (magnitude a / 2 ^ 149) (positionOf (magnitude a % 2 ^ 149) (2 ^ 149))

theorem abs_roundToInt (r : Rounding) : |roundToInt r a| = roundedSize r a := by
  unfold roundToInt roundedSize
  cases fSign a <;> simp

/-- Sizes differ as the numbers do, which have one sign. -/
theorem abs_roundToInt_sub (r : Rounding) :
    |roundToInt r a * 2 ^ 149 - fValue a| = |(roundedSize r a : ℤ) * 2 ^ 149 - magnitude a| := by
  unfold roundToInt roundedSize fValue
  generalize (2 : ℤ) ^ 149 = u
  cases fSign a
  · simp
  · simp only [if_true]
    rw [← abs_neg]
    congr 1
    ring

/-- Rounding to nearest: at most half a unit between the sizes, and at half the tie's rule decided. -/
theorem roundedSize_nearest {r : Rounding} (hr : r = .rne ∨ r = .rmm) :
    2 * |(roundedSize r a : ℤ) * 2 ^ 149 - magnitude a| ≤ 2 ^ 149 ∧
      (2 * |(roundedSize r a : ℤ) * 2 ^ 149 - magnitude a| = 2 ^ 149 →
        (r = .rne → roundedSize r a % 2 = 0) ∧ (r = .rmm → magnitude a < roundedSize r a * 2 ^ 149)) := by
  rw [Int.abs_eq_natAbs]
  unfold roundedSize roundedMagnitude positionOf
  have hsplit := Nat.div_add_mod (magnitude a) (2 ^ 149)
  have hlt := Nat.mod_lt (magnitude a) (Nat.two_pow_pos 149)
  generalize magnitude a / 2 ^ 149 = q at *
  generalize magnitude a % 2 ^ 149 = k at *
  rcases hr with rfl | rfl
  · split_ifs <;> simp_all [roundsAway, -Nat.cast_natAbs] <;> omega
  · split_ifs <;> simp_all [roundsAway, -Nat.cast_natAbs] <;> omega

end ToInt

/-- Settles O47: the operations round their exact value, and the integer conversions round by the same modes. -/
theorem directedRoundingBrackets : Obligations.DirectedRoundingBrackets := by
  refine ⟨fun r a b c w v X _ ha hb hc hv hX => exactResult_roundsTo r ha hb hc hv hX, fun r a n ha hn => ?_⟩
  have hround : roundToInt r a = n := by
    simp only [List.mem_cons, Prod.mk.injEq, List.not_mem_nil, or_false] at hn
    rcases hn with ⟨rfl, rfl⟩ | ⟨rfl, rfl⟩ | ⟨rfl, rfl⟩
    · exact roundToInt_rdn a
    · exact roundToInt_rup a
    · exact roundToInt_rtz a
  rw [← hround]
  exact ⟨fToSigned_finite r ha, fToUnsigned_finite r ha⟩

/-- The distance of an integer from a datum, in units. -/
theorem abs_sub_datum (n : ℤ) (a : Word) : |(n : ℚ) - datum a| = (|n * 2 ^ 149 - fValue a| : ℤ) / 2 ^ 149 := by
  have hunit : (0 : ℚ) < 2 ^ 149 := by positivity
  have hcast : ((n * 2 ^ 149 - fValue a : ℤ) : ℚ) = n * 2 ^ 149 - fValue a := by
    rw [Int.cast_sub, Int.cast_mul, Int.cast_pow, Int.cast_ofNat]
  rw [Int.cast_abs, hcast, datum_eq]
  generalize (2 : ℚ) ^ 149 = u at *
  rw [← abs_of_pos hunit, ← abs_div, abs_of_pos hunit, sub_div, mul_div_cancel_right₀ _ hunit.ne']

/-- Settles O48: the same, in the two modes to nearest. -/
theorem nearestRoundingIsClosest : Obligations.NearestRoundingIsClosest := by
  refine ⟨fun r a b c w v X _ ha hb hc hv hX => exactResult_roundsTo r ha hb hc hv hX, fun r a hr ha => ?_⟩
  have hunit : (0 : ℚ) < 2 ^ 149 := by positivity
  obtain ⟨hle, htie⟩ := roundedSize_nearest a (by simpa using hr)
  rw [← abs_roundToInt_sub] at hle htie
  have hsize := abs_roundToInt a r
  refine ⟨roundToInt r a, fToSigned_finite r ha, fToUnsigned_finite r ha, ?_, fun h => ?_⟩
  · rw [abs_sub_datum, div_le_div_iff₀ hunit two_pos, one_mul, mul_comm]
    exact_mod_cast hle
  · rw [abs_sub_datum, div_eq_div_iff hunit.ne' two_ne_zero, one_mul, mul_comm] at h
    obtain ⟨heven, haway⟩ := htie (by exact_mod_cast h)
    refine ⟨fun hne => ?_, fun hmm => ?_⟩
    · have := heven hne
      rw [Int.abs_eq_natAbs] at hsize
      omega
    · rw [abs_datum, ← Int.cast_abs, hsize, div_lt_iff₀ hunit]
      exact_mod_cast haway hmm

end Sys2Proof.Machine
end

section
/-! PROOFS. The family of spec/20_memory.md section 6: translation is the two-level walk of the page tables, through the
PTW cache (R110-R118, R60). -/

namespace Sys2Proof.Machine

/-! ## Addresses of PTEs and leaves (R110, R112, R117) -/

theorem pageAddress_satpPpn (w : Word) : pageAddress (satpPpn w) = (w.extractLsb' 0 20).setWidth 32 <<< 12 := by
  apply BitVec.eq_of_getLsbD_eq
  intro i hi
  simp only [pageAddress, satpPpn, BitVec.getLsbD_shiftLeft, BitVec.getLsbD_setWidth, BitVec.getLsbD_extractLsb']
  grind

theorem pageAddress_ptePpn (w : Word) : pageAddress (ptePpn w) = (w.extractLsb' 10 20).setWidth 32 <<< 12 := by
  apply BitVec.eq_of_getLsbD_eq
  intro i hi
  simp only [pageAddress, ptePpn, BitVec.getLsbD_shiftLeft, BitVec.getLsbD_setWidth, BitVec.getLsbD_extractLsb']
  grind

theorem rootPteAddress_eq (s : State) (va : Word) :
    pteAddress (pageAddress (satpPpn s.csr.satp)) (va.extractLsb' 22 10) = rootPteAddress s va := by
  rw [pteAddress, pageAddress_satpPpn, rootPteAddress]

theorem nextPteAddress_eq (pte va : Word) :
    pteAddress (pageAddress (ptePpn pte)) (va.extractLsb' 12 10) = nextPteAddress pte va := by
  rw [pteAddress, pageAddress_ptePpn, nextPteAddress]

/-- A level-0 leaf maps 4 KiB. -/
theorem leafAddress_page (pte va : Word) : leafAddress pte va false =
    ((pte.extractLsb' 10 20).setWidth 32 <<< 12 ||| (va.extractLsb' 0 12).setWidth 32) := by
  rw [leafAddress, pageAddress_ptePpn]
  simp

/-- A level-1 leaf whose low PPN bits are 0 maps 4 MiB. -/
theorem leafAddress_megapage {pte : Word} (va : Word) (h : pte.extractLsb' 10 10 = 0#10) : leafAddress pte va true =
    ((pte.extractLsb' 20 10).setWidth 32 <<< 22 ||| (va.extractLsb' 0 22).setWidth 32) := by
  have hlow (i : Nat) (hi : i < 10) : pte.getLsbD (10 + i) = false := by
    have := congrArg (·.getLsbD i) h
    simpa [hi] using this
  rw [leafAddress, pageAddress_ptePpn]
  apply BitVec.eq_of_getLsbD_eq
  intro i hi
  simp only [if_true, BitVec.getLsbD_or, BitVec.getLsbD_shiftLeft, BitVec.getLsbD_setWidth,
    BitVec.getLsbD_extractLsb']
  by_cases h12 : i < 12
  · have h22 : i < 22 := by omega
    simp [h12, h22, hi]
  · by_cases h22 : i < 22
    · have hpte : pte.getLsbD (10 + (i - 12)) = false := hlow (i - 12) (by omega)
      have hlt : i - 12 < 10 := by omega
      have hlt' : i - 12 < 32 := by omega
      have hidx : 12 + (i - 12) = i := by omega
      simp [h12, h22, hi, hpte, hlt, hlt', hidx]
    · have hidx : 10 + (i - 12) = 20 + (i - 22) := by omega
      have hge : ¬i - 12 < 10 := by omega
      have hlt : i - 12 < 20 := by omega
      have hlt' : i - 22 < 10 := by omega
      have hlt12 : i - 12 < 32 := by omega
      have hlt22 : i - 22 < 32 := by omega
      simp [h12, h22, hi, hidx, hge, hlt, hlt', hlt12, hlt22]

/-! ## What a PTE word is (R113, R114, R116) -/

/-- A PTE that is invalid or reserved. -/
theorem pteClass_invalid_iff (pte : Word) : pteClass pte = .invalid ↔
    pte.getLsbD 0 = false ∨ (pte.getLsbD 1 = false ∧ pte.getLsbD 2 = true) := by
  unfold pteClass pteV pteR pteW pteX
  cases pte.getLsbD 0 <;> cases pte.getLsbD 1 <;> cases pte.getLsbD 2 <;> cases pte.getLsbD 3 <;> decide

theorem extractLsb'_rwx_eq_zero_iff (pte : Word) : pte.extractLsb' 1 3 = 0#3 ↔
    pte.getLsbD 1 = false ∧ pte.getLsbD 2 = false ∧ pte.getLsbD 3 = false := by
  constructor
  · intro h
    have hbit (k : Nat) (hk : k < 3) : pte.getLsbD (1 + k) = false := by
      have := congrArg (·.getLsbD k) h
      simpa [hk] using this
    exact ⟨hbit 0 (by decide), hbit 1 (by decide), hbit 2 (by decide)⟩
  · rintro ⟨h1, h2, h3⟩
    apply BitVec.eq_of_getLsbD_eq
    intro k hk
    rw [BitVec.getLsbD_extractLsb']
    interval_cases k
    · simpa using h1
    · simpa using h2
    · simpa using h3

/-- A PTE that points to the next level. -/
theorem pteClass_pointer_iff (pte : Word) : pteClass pte = .pointer ↔
    pte.getLsbD 0 = true ∧ pte.extractLsb' 1 3 = 0#3 := by
  rw [extractLsb'_rwx_eq_zero_iff]
  unfold pteClass pteV pteR pteW pteX
  cases pte.getLsbD 0 <;> cases pte.getLsbD 1 <;> cases pte.getLsbD 2 <;> cases pte.getLsbD 3 <;> decide

/-- A PTE that maps a page. -/
theorem pteClass_leaf_iff (pte : Word) : pteClass pte = .leaf ↔
    pte.getLsbD 0 = true ∧ ¬(pte.getLsbD 1 = false ∧ pte.getLsbD 2 = true) ∧
      (pte.getLsbD 1 = true ∨ pte.getLsbD 3 = true) := by
  unfold pteClass pteV pteR pteW pteX
  cases pte.getLsbD 0 <;> cases pte.getLsbD 1 <;> cases pte.getLsbD 2 <;> cases pte.getLsbD 3 <;> decide

/-- A leaf that the checks of R110 pass. -/
theorem leafUsable_iff (s : State) (ty : Access) (pte : Word) : leafUsable s ty pte ↔
    pteClass pte = .leaf ∧ permitted s pte ty (effPriv s ty) = true ∧
      (!pteA pte || (ty == .store && !pteD pte)) = false := by
  rw [pteClass_leaf_iff]
  unfold leafUsable permitted pteX pteR pteW pteU pteA pteD mxrBit sumBit
  cases ty <;> cases effPriv s _ <;> simp <;> grind

/-! ## The checks on a leaf (R110) -/

section Leaf
variable {s t : State} {ty : Access} {pte : Word} (va : Word) (hcsr : t.csr = s.csr)
include hcsr

theorem permitted_congr (eff : Priv) : permitted t pte ty eff = permitted s pte ty eff := by
  simp only [permitted, hcsr]

theorem leafResult_usable (level1 : Bool) (h : leafUsable s ty pte) (ha : level1 = true → pte.extractLsb' 10 10 = 0#10) :
    leafResult t pte va ty (effPriv s ty) level1 = .ok (leafAddress pte va level1) := by
  obtain ⟨-, hperm, had⟩ := (leafUsable_iff s ty pte).mp h
  have halign : (level1 && pte.extractLsb' 10 10 != 0#10) = false := by
    cases level1
    · rfl
    · simp [ha rfl]
  simp only [leafResult, permitted_congr hcsr, hperm, halign, had, Bool.not_true, Bool.false_eq_true, if_false]

theorem leafResult_unusable (level1 : Bool) (hleaf : pteClass pte = .leaf)
    (h : ¬(leafUsable s ty pte ∧ (level1 = true → pte.extractLsb' 10 10 = 0#10))) :
    leafResult t pte va ty (effPriv s ty) level1 = .pageFault := by
  rw [leafUsable_iff] at h
  unfold leafResult
  rw [permitted_congr hcsr]
  split
  · rfl
  · split
    · rfl
    · split
      · rfl
      · simp_all

end Leaf

/-! ## Reading a PTE (R118) -/

section Congr
variable {s t : State} (hcfg : t.cfg = s.cfg) (hslave : t.slave = s.slave) (hptw : t.ptw = s.ptw)
include hptw

theorem ptwLookup_congr (pa : Word) : t.ptwLookup pa = s.ptwLookup pa := by simp only [State.ptwLookup, hptw]

theorem afterPteRead_ptw_congr (pa pte : Word) : (t.afterPteRead pa pte).ptw = (s.afterPteRead pa pte).ptw := by
  simp only [State.afterPteRead, ptwLookup_congr hptw]
  split
  · simp only [State.ptwFill, hptw]
  · exact hptw

include hcfg hslave

theorem pteReads_congr {pa pte : Word} (h : s.pteReads pa pte) : t.pteReads pa pte := by
  simpa only [State.pteReads, State.inBounds, State.readsOk, hcfg, hslave, ptwLookup_congr hptw] using h

theorem pteFails_congr {pa : Word} (h : s.pteFails pa) : t.pteFails pa := by
  simpa only [State.pteFails, State.inBounds, State.readsOk, hcfg, hslave, ptwLookup_congr hptw] using h

end Congr

theorem afterPteRead_cfg_slave (s : State) (pa pte : Word) :
    (s.afterPteRead pa pte).cfg = s.cfg ∧ (s.afterPteRead pa pte).slave = s.slave := by
  unfold State.afterPteRead
  split <;> exact ⟨rfl, rfl⟩

/-! ## The walk (R110-R118) -/

/-- The state the walk goes on in after the level-1 PTE is read, as far as the rest of the walk looks. -/
def State.afterRoot (s s1 t : State) : Prop :=
  t.csr = s.csr ∧ t.cfg = s1.cfg ∧ t.slave = s1.slave ∧ t.ptw = s1.ptw

section Walk
variable {s : State} {va : Word} {ty : Access} (hon : translationOn s ty = true)
include hon

theorem translate_on : translate s va ty = walk pteReadDirect s va ty (effPriv s ty) := if_pos hon

theorem translate_rootFails (h : s.pteFails (rootPteAddress s va)) :
    (translate s va ty).1 = .accessFault ∧ (translate s va ty).2.ptw = s.ptw := by
  obtain ⟨t, ht, hptw⟩ := pteReadDirect_fails s h
  rw [translate_on hon, walk, rootPteAddress_eq, ht]
  exact ⟨rfl, hptw⟩

/-- Once the level-1 PTE is read, its class decides. -/
theorem translate_rootReads {p1 : Word} (h : s.pteReads (rootPteAddress s va) p1) :
    ∃ t, s.afterRoot (s.afterPteRead (rootPteAddress s va) p1) t ∧
      (pteClass p1 = .invalid → translate s va ty = (.pageFault, t)) ∧
      (pteClass p1 = .leaf → translate s va ty = (leafResult t p1 va ty (effPriv s ty) true, t)) ∧
      (pteClass p1 = .pointer →
        translate s va ty = walkLevel0 pteReadDirect t (pageAddress (ptePpn p1)) va ty (effPriv s ty)) := by
  obtain ⟨t, ht, hcsr, hslave, hcfg, hptw⟩ := pteReadDirect_reads s h
  obtain ⟨hcfg', hslave'⟩ := afterPteRead_cfg_slave s (rootPteAddress s va) p1
  refine ⟨t, ⟨hcsr, hcfg.trans hcfg'.symm, hslave.trans hslave'.symm, hptw⟩, ?_⟩
  rw [translate_on hon, walk, rootPteAddress_eq, ht]
  exact ⟨fun hc => by simp only [hc], fun hc => by simp only [hc], fun hc => by simp only [hc]⟩

variable {p1 : Word} (hr : s.pteReads (rootPteAddress s va) p1)
include hr

theorem translate_megapage (h : leafUsable s ty p1) (ha : p1.extractLsb' 10 10 = 0#10) :
    (translate s va ty).1 =
      .ok ((p1.extractLsb' 20 10).setWidth 32 <<< 22 ||| (va.extractLsb' 0 22).setWidth 32) := by
  obtain ⟨t, ⟨hcsr, -⟩, -, ht, -⟩ := translate_rootReads hon hr
  rw [ht ((leafUsable_iff s ty p1).mp h).1]
  exact (leafResult_usable va hcsr true h fun _ => ha).trans (congrArg _ (leafAddress_megapage va ha))

theorem translate_rootInvalid (h : p1.getLsbD 0 = false ∨ (p1.getLsbD 1 = false ∧ p1.getLsbD 2 = true)) :
    (translate s va ty).1 = .pageFault := by
  obtain ⟨t, -, ht, -⟩ := translate_rootReads hon hr
  rw [ht ((pteClass_invalid_iff p1).mpr h)]

theorem translate_rootUnusable (hrx : p1.getLsbD 1 = true ∨ p1.getLsbD 3 = true)
    (h : ¬(leafUsable s ty p1 ∧ p1.extractLsb' 10 10 = 0#10)) : (translate s va ty).1 = .pageFault := by
  obtain ⟨t, ⟨hcsr, -⟩, hinvalid, hleaf, -⟩ := translate_rootReads hon hr
  cases hclass : pteClass p1 with
  | invalid => rw [hinvalid hclass]
  | leaf =>
    rw [hleaf hclass]
    exact leafResult_unusable va hcsr true hclass (by simpa using h)
  | pointer =>
    rw [pteClass_pointer_iff, extractLsb'_rwx_eq_zero_iff] at hclass
    obtain ⟨-, h1, -, h3⟩ := hclass
    rw [h1, h3] at hrx
    simp at hrx

theorem translate_rootOnly (h : p1.getLsbD 0 = false ∨ p1.extractLsb' 1 3 ≠ 0#3) :
    (translate s va ty).2.ptw = (s.afterPteRead (rootPteAddress s va) p1).ptw := by
  obtain ⟨t, ⟨-, -, -, hptw⟩, hinvalid, hleaf, -⟩ := translate_rootReads hon hr
  cases hclass : pteClass p1 with
  | invalid => rw [hinvalid hclass]; exact hptw
  | leaf => rw [hleaf hclass]; exact hptw
  | pointer =>
    obtain ⟨hv, hrwx⟩ := (pteClass_pointer_iff p1).mp hclass
    rw [hv, hrwx] at h
    simp at h

/-- A pointer leads to the level-0 table. -/
theorem translate_pointer (hv : p1.getLsbD 0 = true) (hrwx : p1.extractLsb' 1 3 = 0#3) :
    ∃ t, s.afterRoot (s.afterPteRead (rootPteAddress s va) p1) t ∧
      translate s va ty = walkLevel0 pteReadDirect t (pageAddress (ptePpn p1)) va ty (effPriv s ty) := by
  obtain ⟨t, h, -, -, ht⟩ := translate_rootReads hon hr
  exact ⟨t, h, ht ((pteClass_pointer_iff p1).mpr ⟨hv, hrwx⟩)⟩

end Walk

section Level0
variable {s t : State} {va p1 : Word} {ty : Access}

theorem walkLevel0_fails (h : t.pteFails (nextPteAddress p1 va)) :
    (walkLevel0 pteReadDirect t (pageAddress (ptePpn p1)) va ty (effPriv s ty)).1 = .accessFault ∧
      (walkLevel0 pteReadDirect t (pageAddress (ptePpn p1)) va ty (effPriv s ty)).2.ptw = t.ptw := by
  obtain ⟨u, hu, hptw⟩ := pteReadDirect_fails t h
  rw [walkLevel0, nextPteAddress_eq, hu]
  exact ⟨rfl, hptw⟩

variable {p0 : Word} (hcsr : t.csr = s.csr) (h : t.pteReads (nextPteAddress p1 va) p0)
include hcsr h

theorem walkLevel0_reads :
    (leafUsable s ty p0 → (walkLevel0 pteReadDirect t (pageAddress (ptePpn p1)) va ty (effPriv s ty)).1 =
      .ok ((p0.extractLsb' 10 20).setWidth 32 <<< 12 ||| (va.extractLsb' 0 12).setWidth 32)) ∧
    (¬leafUsable s ty p0 →
      (walkLevel0 pteReadDirect t (pageAddress (ptePpn p1)) va ty (effPriv s ty)).1 = .pageFault) ∧
    (walkLevel0 pteReadDirect t (pageAddress (ptePpn p1)) va ty (effPriv s ty)).2.ptw =
      (t.afterPteRead (nextPteAddress p1 va) p0).ptw := by
  obtain ⟨u, hu, hcsr', -, -, hptw⟩ := pteReadDirect_reads t h
  rw [walkLevel0, nextPteAddress_eq, hu]
  cases hclass : pteClass p0 with
  | leaf =>
    simp only [hclass]
    refine ⟨fun h0 => ?_, fun h0 => ?_, hptw⟩
    · exact (leafResult_usable va (hcsr'.trans hcsr) false h0 (by simp)).trans (congrArg _ (leafAddress_page p0 va))
    · exact leafResult_unusable va (hcsr'.trans hcsr) false hclass (by simpa using h0)
  | invalid =>
    simp only [hclass]
    exact ⟨fun h0 => by simp [leafUsable_iff, hclass] at h0, fun _ => trivial, hptw⟩
  | pointer =>
    simp only [hclass]
    exact ⟨fun h0 => by simp [leafUsable_iff, hclass] at h0, fun _ => trivial, hptw⟩

end Level0

/-! ## The PTW cache (R60) -/

/-- A word address is the index and the tag of its entry. -/
theorem wordIndex_eq_iff (pa pb : Word) : pb.extractLsb' 2 30 = pa.extractLsb' 2 30 ↔
    pb.extractLsb' 2 9 = pa.extractLsb' 2 9 ∧ ptwTag pb = ptwTag pa := by
  simp only [ptwTag, ← BitVec.toNat_inj, BitVec.extractLsb'_toNat, Nat.shiftRight_eq_div_pow]
  omega

theorem ptwLookup_ptwFill_eq (s : State) (pa pb d : Word) : (s.ptwFill pa d).ptwLookup pb =
    if pb.extractLsb' 2 30 = pa.extractLsb' 2 30 then some d
    else if pb.extractLsb' 2 9 = pa.extractLsb' 2 9 then none else s.ptwLookup pb := by
  simp only [wordIndex_eq_iff]
  by_cases h : pb.extractLsb' 2 9 = pa.extractLsb' 2 9
  · have hindex : ptwIndex pb = ptwIndex pa := congrArg BitVec.toNat h
    by_cases htag : ptwTag pb = ptwTag pa
    · simp [State.ptwLookup, State.ptwFill, h, hindex, htag]
    · have htag' : ¬ptwTag pa = ptwTag pb := fun e => htag e.symm
      simp [State.ptwLookup, State.ptwFill, h, hindex, htag, htag']
  · rw [if_neg (fun hc => h hc.1), if_neg h]
    exact ptwLookup_ptwFill_other s d fun e => h (BitVec.toNat_inj.mp e.symm)

/-- Settles O54: each case of the walk by the class of the PTE it reads. -/
theorem walkFollowsPageTables : Obligations.WalkFollowsPageTables := by
  refine ⟨fun s va ty h => translate_bare s ?_, fun s va ty hsatp heff => ?_, ptwLookup_ptwFill_eq⟩
  · rcases h with h | h <;> simp only [translationOn, h, Bool.false_and, bne_self_eq_false, Bool.and_false]
  · have hon : translationOn s ty = true := by
      rw [translationOn, hsatp]
      simpa using heff
    refine ⟨translate_rootFails hon, fun p1 hr => ⟨translate_megapage hon hr, translate_rootUnusable hon hr,
      translate_rootInvalid hon hr, translate_rootOnly hon hr, fun hv hrwx s1 hs1 => ?_⟩⟩
    obtain ⟨t, ⟨hcsr, hcfg, hslave, hptw⟩, ht⟩ := translate_pointer hon hr hv hrwx
    rw [← hs1] at hcfg hslave hptw
    rw [ht]
    refine ⟨fun h => ?_, fun p0 h => ?_⟩
    · obtain ⟨hfault, hptw'⟩ := walkLevel0_fails (pteFails_congr hcfg hslave hptw h)
      exact ⟨hfault, hptw'.trans hptw⟩
    · obtain ⟨hok, hfault, hptw'⟩ := walkLevel0_reads hcsr (pteReads_congr hcfg hslave hptw h)
      exact ⟨hok, hfault, hptw'.trans (afterPteRead_ptw_congr hptw _ _)⟩

end Sys2Proof.Machine
end

section
/-! PROOFS. The family of spec/60_exceptions.md section 6: what U-mode can change, and who touches the reservation, the
PTW cache and memory (R51, R60, R540). -/

namespace Sys2Proof.Machine

/-! ## What Execute leaves of the reservation and the PTW cache -/

section Bodies
variable (s : State)

@[simp] theorem loadBody_ptw (va : Word) (rd : Reg) (v : Word) : (loadBody va rd v s).ptw = s.ptw := by
  cases h : loadFault s with
  | some e => rw [loadBody_fault s h]; simp [raise]
  | none => rw [loadBody_ok s h]; simp

@[simp] theorem loadBody_res (va : Word) (rd : Reg) (v : Word) : (loadBody va rd v s).res = s.res := by
  cases h : loadFault s with
  | some e => rw [loadBody_fault s h]; simp [raise]
  | none => rw [loadBody_ok s h]; simp

@[simp] theorem storeBody_ptw (va : Word) (n : Nat) (v : Word) : (storeBody va n v s).ptw = s.ptw := by
  cases h : storeFault s with
  | some e => rw [storeBody_fault s h]; simp [raise]
  | none => rw [storeBody_ok s h]; rfl

@[simp] theorem storeBody_res (va : Word) (n : Nat) (v : Word) : (storeBody va n v s).res = s.res := by
  cases h : storeFault s with
  | some e => rw [storeBody_fault s h]; simp [raise]
  | none => rw [storeBody_ok s h]; rfl

@[simp] theorem lrBody_ptw (rd rs1 : Reg) : (lrBody rd rs1 s).ptw = s.ptw := by
  cases h : loadFault s with
  | some e => rw [lrBody_fault s h]; simp [raise]
  | none => rw [lrBody_ok s h]; simp

@[simp] theorem scBody_ptw (rd rs1 rs2 : Reg) : (scBody rd rs1 rs2 s).ptw = s.ptw := by
  cases h : storeFault s with
  | some e => rw [scBody_fault s h]; simp [raise]
  | none =>
    cases ok : scSucceeds s with
    | true => rw [scBody_success s h ok]; simp
    | false => rw [scBody_failure s h ok]; simp

@[simp] theorem amoBody_ptw (f : Word → Word → Word) (rd rs1 rs2 : Reg) : (amoBody f rd rs1 rs2 s).ptw = s.ptw := by
  cases h : storeFault s with
  | some e => rw [amoBody_fault s h]; simp [raise]
  | none => rw [amoBody_ok s h]; simp

@[simp] theorem amoBody_res (f : Word → Word → Word) (rd rs1 rs2 : Reg) : (amoBody f rd rs1 rs2 s).res = s.res := by
  cases h : storeFault s with
  | some e => rw [amoBody_fault s h]; simp [raise]
  | none => rw [amoBody_ok s h]; simp

end Bodies

section Access
variable {i : Instr} {s t : State} {m : MemReq} (hm : preDecode i s = some m)
include hm

theorem executeBody_ptw {d u : State} (he : executeBody i d = .next u) : u.ptw = d.ptw := by
  cases i <;> simp only [preDecode, reduceCtorEq] at hm <;> obtain rfl := Host.Outcome.next.inj he
  case lb | lh | lw | lbu | lhu => exact loadBody_ptw ..
  case sb | sh | sw => exact storeBody_ptw ..
  case lrW => exact lrBody_ptw ..
  case scW => exact scBody_ptw ..
  all_goals exact amoBody_ptw ..

theorem executeBody_res (hlr : ∀ rd rs1 aq rl, i ≠ .lrW rd rs1 aq rl)
    (hsc : ∀ rd rs1 rs2 aq rl, i ≠ .scW rd rs1 rs2 aq rl) {d u : State} (he : executeBody i d = .next u) :
    u.res = d.res := by
  cases i <;> simp only [preDecode, reduceCtorEq] at hm <;> obtain rfl := Host.Outcome.next.inj he
  case lb | lh | lw | lbu | lhu => exact loadBody_res ..
  case sb | sh | sw => exact storeBody_res ..
  case lrW => exact (hlr _ _ _ _ rfl).elim
  case scW => exact (hsc _ _ _ _ _ rfl).elim
  all_goals exact amoBody_res ..

theorem exec_ptw_of_access (he : exec i s = .next t) : t.ptw = (dataPhase m s).ptw := by
  obtain ⟨u, hu, hexec⟩ := exec_access hm
  have hbody := executeBody_ptw hm hu
  rw [hexec] at he
  split at he
  · rcases amoCommit_next he with rfl | rfl
    · exact hbody
    · rw [busWrite_ptw]; exact hbody
  · cases he; exact hbody

end Access

theorem exec_res {i : Instr} {s t : State} (he : exec i s = .next t) (hlr : ∀ rd rs1 aq rl, i ≠ .lrW rd rs1 aq rl)
    (hsc : ∀ rd rs1 rs2 aq rl, i ≠ .scW rd rs1 rs2 aq rl) : t.res = s.res := by
  cases hm : preDecode i s with
  | none => exact (exec_sameMachine hm he).res
  | some m =>
    obtain ⟨u, hu, hexec⟩ := exec_access hm
    have hbody := (executeBody_res hm hlr hsc hu).trans (dataPhase_res s m)
    rw [hexec] at he
    split at he
    · rcases amoCommit_next he with rfl | rfl
      · exact hbody
      · rw [busWrite_res]; exact hbody
    · cases he; exact hbody

/-! ## Instructions without an access that leave the PTW cache alone -/

theorem csrOfNumber_satp {n : BitVec 12} (h : csrOfNumber n = some .satp) : n = 0x180#12 := by
  unfold csrOfNumber at h
  split at h <;> simp at h
  rfl

theorem csrWrite_ptw {c : Csr} (hc : c ≠ .satp) (v : Word) (s : State) : (csrWrite c v s).ptw = s.ptw := by
  cases c
  case satp => exact absurd rfl hc
  all_goals rfl

theorem csrRead_ptw (c : Csr) (s : State) : (csrRead c s).2.ptw = s.ptw :=
  (congrArg State.ptw (csrRead_frame s c) :)

theorem csrOp_ptw {n : BitVec 12} (hn : n ≠ 0x180#12) (rd : Reg) (w : Bool) (new : Word → Word) (s : State) :
    (csrOp n rd w new s).ptw = s.ptw := by
  cases hc : csrAccess n w s.priv with
  | none => rw [csrOp_illegal s hc]; simp [raiseIllegal, raise]
  | some c =>
    have hsatp : c ≠ .satp := by
      rintro rfl
      unfold csrAccess at hc
      split at hc
      · exact hn (csrOfNumber_satp hc)
      · cases hc
    rw [csrOp_legal s hc]
    cases w
    · simp [csrRead_ptw]
    · simp [csrRead_ptw, csrWrite_ptw hsatp]

theorem transferTo_ptw (target : Word) {linked s : State} (h : linked.ptw = s.ptw) :
    (transferTo target linked s).ptw = s.ptw := by
  cases ht : targetMisaligned target with
  | true => rw [transferTo_misaligned s linked ht]; simp [raise]
  | false => rw [transferTo_aligned s linked ht]; exact h

theorem branch_ptw (cond : Bool) (target : Word) (s : State) : (branch cond target s).ptw = s.ptw := by
  cases cond
  · rfl
  · cases ht : targetMisaligned target with
    | true => rw [branch_taken_misaligned s ht]; simp [raise, State.setBranchFlags]
    | false => rw [branch_taken_aligned s ht]; rfl

theorem withRounding_ptw (rm : BitVec 3) (rd : Reg) (f : Rounding → Word) (s : State) :
    (withRounding rm rd f s).ptw = s.ptw := by
  cases h : roundingMode rm with
  | none => rw [withRounding_reserved s h]; simp [raiseUndecodable, raiseIllegal, raise]
  | some r => rw [withRounding_legal s h]; simp

theorem exec_ptw_of_noAccess {i : Instr} {s t : State} (hm : preDecode i s = none) (he : exec i s = .next t)
    (hsfence : ∀ rs1 rs2, i ≠ .sfenceVma rs1 rs2)
    (hcsr : ∀ rd rs1 uimm j, (∃ w v, (j, w, v) ∈ csrForms rd rs1 uimm 0x180#12 s 0#32) → i ≠ j) : t.ptw = s.ptw := by
  cases i <;> simp only [preDecode, reduceCtorEq] at hm <;> obtain rfl := Host.Outcome.next.inj he
  case jal | jalr => exact transferTo_ptw _ (by simp)
  case beq | bne | blt | bge | bltu | bgeu => exact branch_ptw ..
  case fence | fenceI | wfi | ebreak => rfl
  case ecall => simp [raise]
  case sret => split; exacts [by simp [raiseIllegal, raise], rfl]
  case mret => split; exacts [rfl, by simp [raiseIllegal, raise]]
  case sfenceVma => exact (hsfence _ _ rfl).elim
  case csrrw rd rs1 n => exact csrOp_ptw (fun hn => hcsr rd rs1 0#5 _ ⟨_, _, .head _⟩ (by rw [hn])) ..
  case csrrs rd rs1 n => exact csrOp_ptw (fun hn => hcsr rd rs1 0#5 _ ⟨_, _, .tail _ (.head _)⟩ (by rw [hn])) ..
  case csrrc rd rs1 n => exact csrOp_ptw (fun hn => hcsr rd rs1 0#5 _ ⟨_, _, .tail _ (.tail _ (.head _))⟩ (by rw [hn])) ..
  case csrrwi rd uimm n =>
    exact csrOp_ptw (fun hn => hcsr rd 0#5 uimm _ ⟨_, _, .tail _ (.tail _ (.tail _ (.head _)))⟩ (by rw [hn])) ..
  case csrrsi rd uimm n =>
    exact csrOp_ptw (fun hn => hcsr rd 0#5 uimm _ ⟨_, _, .tail _ (.tail _ (.tail _ (.tail _ (.head _))))⟩ (by rw [hn])) ..
  case csrrci rd uimm n =>
    refine csrOp_ptw (fun hn => ?_) ..
    exact hcsr rd 0#5 uimm _ ⟨_, _, .tail _ (.tail _ (.tail _ (.tail _ (.tail _ (.head _)))))⟩ (by rw [hn])
  case faddS | fsubS | fmulS | fdivS | fsqrtS | fcvtWS | fcvtWuS | fcvtSW | fcvtSWu | fmaddS | fmsubS | fnmsubS | fnmaddS =>
    exact withRounding_ptw ..
  all_goals exact writeRd_ptw ..

/-! ## What an access leaves of the PTW cache -/

section AccessCache
variable (s : State) {m : MemReq}

theorem dataPhase_ptw_misaligned (ha : m.va.toNat % m.size ≠ 0) : (dataPhase m s).ptw = s.ptw := by
  rw [dataPhase_misaligned s (by simpa [misaligned] using ha)]
  simp [dataStart]

theorem dataPhase_ptw_aligned (ha : m.va.toNat % m.size = 0) :
    (dataPhase m s).ptw = (translate s m.va m.type).2.ptw := by
  have ha' : misaligned m.size m.va = false := by simpa [misaligned] using ha
  rw [← translate_dataStart_ptw]
  cases ht : (translate (dataStart s) m.va m.type).1 with
  | pageFault => rw [dataPhase_pageFault s ha' ht]; simp
  | accessFault => rw [dataPhase_walkFault s ha' ht]; simp
  | pending => exact (translate_ne_pending _ _ _ ht).elim
  | ok pa =>
    cases hb : s.inBounds pa with
    | false => rw [dataPhase_outOfBounds s ha' ht hb]; simp
    | true => rw [dataPhase_ok s ha' ht hb]; simp

end AccessCache

/-- `e` is the PTW-cache entry at `k` filled with the PTE that memory holds at `pa`. -/
def State.filledBy (s : State) (pa : Word) (e : PtwEntry) (k : Fin 512) : Prop :=
  (pa.extractLsb' 2 9).toNat = k.val ∧ s.inBounds pa = true ∧ s.readsOk pa ∧
    e = { valid := true, tag := pa.extractLsb' 11 21, data := s.slave.mem.readWord pa }

/-- `pa` is the address of a PTE of the walk for `va`: the level-1 one, or the level-0 one below a level-1 pointer. -/
def State.pteOfWalk (s : State) (va pa : Word) : Prop :=
  pa = rootPteAddress s va ∨
    ∃ p1, s.pteReads (rootPteAddress s va) p1 ∧ p1.getLsbD 0 = true ∧ p1.extractLsb' 1 3 = 0#3 ∧
      pa = nextPteAddress p1 va

theorem afterPteRead_entry {s : State} {pa pte : Word} (h : s.pteReads pa pte) (k : Fin 512) :
    (s.afterPteRead pa pte).ptw[k] = s.ptw[k] ∨ s.filledBy pa (s.afterPteRead pa pte).ptw[k] k := by
  obtain ⟨hb, hhit | ⟨hmiss, hok, rfl⟩⟩ := h
  · exact .inl (by simp [State.afterPteRead, hhit])
  · rw [State.afterPteRead, if_pos hmiss]
    by_cases hk : ptwIndex pa = k.val
    · exact .inr ⟨hk, hb, hok, by simp [State.ptwFill, hk, ptwTag]⟩
    · exact .inl (by simp [State.ptwFill, hk])

theorem pteFails_or_pteReads (s : State) (pa : Word) : s.pteFails pa ∨ ∃ pte, s.pteReads pa pte := by
  unfold State.pteFails State.pteReads
  cases s.inBounds pa <;> cases s.ptwLookup pa <;> by_cases s.readsOk pa <;> simp_all

theorem translate_entry (s : State) (va : Word) (ty : Access) (k : Fin 512) :
    (translate s va ty).2.ptw[k] = s.ptw[k] ∨ ∃ pa, s.pteOfWalk va pa ∧ s.filledBy pa (translate s va ty).2.ptw[k] k := by
  by_cases hon : translationOn s ty = true
  case neg => exact .inl (by rw [translate_bare s (by simpa using hon)])
  obtain hfail | ⟨p1, hr⟩ := pteFails_or_pteReads s (rootPteAddress s va)
  · exact .inl (by rw [(translate_rootFails hon hfail).2])
  have hroot := (afterPteRead_entry hr k).imp_right fun h =>
    (⟨_, .inl rfl, h⟩ : ∃ pa, s.pteOfWalk va pa ∧ s.filledBy pa (s.afterPteRead (rootPteAddress s va) p1).ptw[k] k)
  by_cases hp : p1.getLsbD 0 = true ∧ p1.extractLsb' 1 3 = 0#3
  case neg =>
    rw [translate_rootOnly hon hr (by cases hv : p1.getLsbD 0 <;> simp_all)]
    exact hroot
  obtain ⟨hv, hrwx⟩ := hp
  obtain ⟨t, ⟨hcsr, hcfg, hslave, hptw⟩, ht⟩ := translate_pointer hon hr hv hrwx
  obtain ⟨hcfg', hslave'⟩ := afterPteRead_cfg_slave s (rootPteAddress s va) p1
  rw [ht]
  rw [← hptw] at hroot
  obtain hfail | ⟨p0, hr0⟩ := pteFails_or_pteReads t (nextPteAddress p1 va)
  · rw [(walkLevel0_fails hfail).2]
    exact hroot
  · rw [(walkLevel0_reads hcsr hr0).2.2]
    rcases afterPteRead_entry hr0 k with hsame | hfill
    · rw [hsame]
      exact hroot
    · refine .inr ⟨_, .inr ⟨p1, hr, hv, hrwx, rfl⟩, ?_⟩
      simpa only [State.filledBy, State.inBounds, State.readsOk, hcfg.trans hcfg', hslave.trans hslave'] using hfill

/-- Settles O53: the reservation and the PTW cache by what each instruction does, an access through its data phase. -/
theorem reservationAndCacheTouchedOnlyByTheirOwn : Obligations.ReservationAndCacheTouchedOnlyByTheirOwn := by
  intro i s t he
  refine ⟨exec_res he, fun hm => exec_ptw_of_noAccess hm he, fun m hm => ?_, fun hm => ?_⟩
  · rw [exec_ptw_of_access hm he]
    refine ⟨fun h => ?_, dataPhase_ptw_aligned s, fun k => ?_⟩
    · by_cases ha : m.va.toNat % m.size = 0
      · rw [dataPhase_ptw_aligned s ha, translate_bare s]
        rcases h with h | h | h
        · exact absurd ha h
        · rw [translationOn, h, Bool.false_and]
        · simp [translationOn, h]
      · exact dataPhase_ptw_misaligned s ha
    · by_cases ha : m.va.toNat % m.size = 0
      · rw [dataPhase_ptw_aligned s ha]
        exact translate_entry s m.va m.type k
      · exact .inl (by rw [dataPhase_ptw_misaligned s ha])
  · have h := exec_sameMachine hm he
    exact ⟨h.slave, h.mirror, h.uartOut⟩

end Sys2Proof.Machine
end

section
/-! PROOFS. The family of spec/60_exceptions.md section 6: U-mode is contained (R540). -/

namespace Sys2Proof.Machine

/-- `t` is reached from `s` with the mode and the CSRs kept and no exception taken. -/
structure State.keepsPrivileged (s t : State) : Prop where
  priv : t.priv = s.priv
  csr : t.csr = s.csr
  isException : t.flags.isException = s.flags.isException

/-- `t` looks, to a program, as a state in which `s`, or one that differs from it outside the program's view, raised an
exception. -/
def State.raisesFrom (s t : State) : Prop :=
  ∃ e v d, d.x = s.x ∧ d.pc = s.pc ∧ d.priv = s.priv ∧ d.csr = s.csr ∧ t.x = (raise e v d).x ∧ t.pc = (raise e v d).pc ∧
    t.priv = (raise e v d).priv ∧ t.csr = (raise e v d).csr ∧ t.flags = (raise e v d).flags

/-- What an instruction in U-mode may do (R540). -/
def State.contained (s t : State) : Prop := s.keepsPrivileged t ∨ s.raisesFrom t

section Contained
variable {s : State}

theorem State.contained.same {t : State} (hpriv : t.priv = s.priv) (hcsr : t.csr = s.csr)
    (hflag : t.flags.isException = s.flags.isException) : s.contained t := .inl ⟨hpriv, hcsr, hflag⟩

theorem State.contained.raise (e : Exc) (v : Word) {d : State} (hx : d.x = s.x) (hpc : d.pc = s.pc)
    (hpriv : d.priv = s.priv) (hcsr : d.csr = s.csr) : s.contained (raise e v d) :=
  .inr ⟨e, v, d, hx, hpc, hpriv, hcsr, rfl, rfl, rfl, rfl, rfl⟩

theorem State.contained.writeRd (rd : Reg) (v : Word) : s.contained (s.writeRd rd v) := .same (by simp) (by simp) (by simp)

theorem State.contained.advancePc : s.contained s.advancePc := .same rfl rfl rfl

/-- A state that looks alike to a program, exception flag included, is as contained. -/
theorem State.contained.congr {t u : State} (h : s.contained t) (hx : u.x = t.x) (hpc : u.pc = t.pc)
    (hpriv : u.priv = t.priv) (hcsr : u.csr = t.csr) (hflags : u.flags = t.flags) : s.contained u := by
  rcases h with ⟨hp, hc, hf⟩ | ⟨e, v, d, hdx, hdpc, hdpriv, hdcsr, ex, epc, epriv, ecsr, eflags⟩
  · exact .same (hpriv.trans hp) (hcsr.trans hc) (hflags ▸ hf)
  · exact .inr ⟨e, v, d, hdx, hdpc, hdpriv, hdcsr, hx.trans ex, hpc.trans epc, hpriv.trans epriv, hcsr.trans ecsr,
      hflags.trans eflags⟩

/-- The state an access is made from may be replaced by the one before it. -/
theorem State.contained.of_start {d t : State} (h : d.contained t) (hx : d.x = s.x) (hpc : d.pc = s.pc)
    (hpriv : d.priv = s.priv) (hcsr : d.csr = s.csr) (hflag : d.flags.isException = s.flags.isException) :
    s.contained t := by
  rcases h with ⟨hp, hc, hf⟩ | ⟨e, v, d', hdx, hdpc, hdpriv, hdcsr, hraise⟩
  · exact .same (hp.trans hpriv) (hc.trans hcsr) (hf.trans hflag)
  · exact .inr ⟨e, v, d', hdx.trans hx, hdpc.trans hpc, hdpriv.trans hpriv, hdcsr.trans hcsr, hraise⟩

/-! ## The shared operations -/

theorem transferTo_contained (target : Word) {linked : State} (h : s.keepsPrivileged linked) :
    s.contained (transferTo target linked s) := by
  cases ht : targetMisaligned target with
  | true => rw [transferTo_misaligned s linked ht]; exact .raise _ _ rfl rfl rfl rfl
  | false =>
    rw [transferTo_aligned s linked ht]
    exact .inl { h with }

theorem withRounding_contained (rm : BitVec 3) (rd : Reg) (f : Rounding → Word) :
    s.contained (withRounding rm rd f s) := by
  cases h : roundingMode rm with
  | none => rw [withRounding_reserved s h]; exact .raise _ _ rfl rfl rfl rfl
  | some r => rw [withRounding_legal s h]; exact .writeRd ..

theorem branch_contained (cond : Bool) (target : Word) : s.contained (branch cond target s) := by
  cases cond
  · exact .same rfl rfl rfl
  · cases ht : targetMisaligned target with
    | true => rw [branch_taken_misaligned s ht]; exact .raise _ _ rfl rfl rfl rfl
    | false => rw [branch_taken_aligned s ht]; exact .same rfl rfl rfl

/-- No CSR number that U-mode reaches is writable (R31, R33). -/
theorem csrAccess_user_writes (n : BitVec 12) : csrAccess n true .u = none := by
  unfold csrAccess csrOfNumber
  split
  · rename_i h
    split
    case h_24 => rfl
    all_goals revert h; decide
  · rfl

theorem csrOp_contained (hu : s.priv = .u) (n : BitVec 12) (rd : Reg) (w : Bool) (new : Word → Word) :
    s.contained (csrOp n rd w new s) := by
  cases hc : csrAccess n w s.priv with
  | none => rw [csrOp_illegal s hc]; exact .raise _ _ rfl rfl rfl rfl
  | some c =>
    cases w with
    | true =>
      rw [hu, csrAccess_user_writes] at hc
      cases hc
    | false =>
      have hframe := csrRead_frame s c
      rw [csrOp_legal s hc]
      refine .same ?_ ?_ ?_
      · simpa using (congrArg State.priv hframe :)
      · simpa using (congrArg State.csr hframe :)
      · simpa using (congrArg (fun u : State => u.flags.isException) hframe :)

theorem loadBody_contained (va : Word) (rd : Reg) (v : Word) : s.contained (loadBody va rd v s) := by
  cases hf : loadFault s with
  | some e => rw [loadBody_fault s hf]; exact .raise _ _ rfl rfl rfl rfl
  | none => rw [loadBody_ok s hf]; exact .writeRd ..

theorem storeBody_contained (va : Word) (n : Nat) (v : Word) : s.contained (storeBody va n v s) := by
  cases hf : storeFault s with
  | some e => rw [storeBody_fault s hf]; exact .raise _ _ rfl rfl rfl rfl
  | none => rw [storeBody_ok s hf]; exact .same rfl rfl rfl

theorem lrBody_contained (rd rs1 : Reg) : s.contained (lrBody rd rs1 s) := by
  cases hf : loadFault s with
  | some e => rw [lrBody_fault s hf]; exact .raise _ _ rfl rfl rfl rfl
  | none => rw [lrBody_ok s hf]; exact .same (by simp) (by simp) (by simp)

theorem scBody_contained (rd rs1 rs2 : Reg) : s.contained (scBody rd rs1 rs2 s) := by
  cases hf : storeFault s with
  | some e => rw [scBody_fault s hf]; exact .raise _ _ rfl rfl rfl rfl
  | none =>
    cases ok : scSucceeds s with
    | true => rw [scBody_success s hf ok]; exact .same (by simp) (by simp) (by simp)
    | false => rw [scBody_failure s hf ok]; exact .same (by simp) (by simp) (by simp)

theorem amoBody_contained (f : Word → Word → Word) (rd rs1 rs2 : Reg) : s.contained (amoBody f rd rs1 rs2 s) := by
  cases hf : storeFault s with
  | some e => rw [amoBody_fault s hf]; exact .raise _ _ rfl rfl rfl rfl
  | none => rw [amoBody_ok s hf]; exact .same (by simp) (by simp) (by simp)

end Contained

/-! ## Every instruction -/

section Exec
variable {i : Instr} {s t : State}

theorem exec_contained_of_noAccess (hu : s.priv = .u) (hm : preDecode i s = none) (he : exec i s = .next t) :
    s.contained t := by
  cases i <;> simp only [preDecode, reduceCtorEq] at hm <;> obtain rfl := Host.Outcome.next.inj he
  case jal | jalr => exact transferTo_contained _ ⟨by simp, by simp, by simp⟩
  case beq | bne | blt | bge | bltu | bgeu => exact branch_contained ..
  case fence | fenceI | wfi => exact .advancePc
  case ecall => exact .raise _ _ rfl rfl rfl rfl
  case ebreak => exact .same rfl rfl rfl
  case sret | sfenceVma => simpa only [hu, beq_self_eq_true, if_true] using .raise _ _ rfl rfl rfl rfl
  case mret => simpa [hu] using .raise _ _ rfl rfl rfl rfl
  case csrrw | csrrs | csrrc | csrrwi | csrrsi | csrrci => exact csrOp_contained hu ..
  case faddS | fsubS | fmulS | fdivS | fsqrtS | fcvtWS | fcvtWuS | fcvtSW | fcvtSWu | fmaddS | fmsubS | fnmsubS | fnmaddS =>
    exact withRounding_contained ..
  all_goals exact .writeRd ..

theorem executeBody_contained {m : MemReq} (hm : preDecode i s = some m) {d u : State}
    (he : executeBody i d = .next u) : d.contained u := by
  cases i <;> simp only [preDecode, reduceCtorEq] at hm <;> obtain rfl := Host.Outcome.next.inj he
  case lb | lh | lw | lbu | lhu => exact loadBody_contained ..
  case sb | sh | sw => exact storeBody_contained ..
  case lrW => exact lrBody_contained ..
  case scW => exact scBody_contained ..
  all_goals exact amoBody_contained ..

theorem exec_contained (hu : s.priv = .u) (he : exec i s = .next t) : s.contained t := by
  cases hm : preDecode i s with
  | none => exact exec_contained_of_noAccess hu hm he
  | some m =>
    obtain ⟨u, hbody, hexec⟩ := exec_access hm
    have hflags := dataPhase_flags_frame s m (preDecode_facts s hm).1
    have h : s.contained u := (executeBody_contained hm hbody).of_start (by simp) (by simp) (by simp) (by simp)
      (congrArg Flags.isException hflags :)
    rw [hexec] at he
    split at he
    · rcases amoCommit_next he with rfl | rfl
      · exact h
      · exact h.congr (by simp) (by simp) (by simp) (by simp) (by simp)
    · cases he; exact h

end Exec

/-- Taking an exception in U-mode enters S exactly if it is delegated, and M otherwise. -/
theorem tookException_user {s t : State} {e : Exc} {v : Word} (hu : s.priv = .u) (h : s.tookException t e v) :
    t.priv ≠ .u ∧ (t.priv = .s ↔ s.csr.medeleg.getLsbD (excCode e) = true) ∧
    (t.priv = .s → t.csr.mepc = s.csr.mepc ∧ t.csr.mcause = s.csr.mcause ∧ t.csr.mtval = s.csr.mtval) ∧
    (t.priv = .m → t.csr.sepc = s.csr.sepc ∧ t.csr.scause = s.csr.scause ∧ t.csr.stval = s.csr.stval) := by
  unfold State.tookException at h
  split at h
  next hd =>
    obtain ⟨hpriv, -, -, -, hmepc, hmcause, hmtval, -⟩ := h
    simp [hpriv, hd.2, hmepc, hmcause, hmtval]
  next hd =>
    obtain ⟨hpriv, -, -, -, hsepc, hscause, hstval, -⟩ := h
    simp only [hu, ne_eq, reduceCtorEq, not_false_eq_true, true_and] at hd
    simp [hpriv, hd, hsepc, hscause, hstval]

/-- Settles O52: every instruction in U-mode keeps the privileged state or raises an exception. -/
theorem userModeIsContained : Obligations.UserModeIsContained := by
  intro i s t hu hflag he
  rcases exec_contained hu he with ⟨hpriv, hcsr, hkept⟩ | ⟨e, v, d, hx, hpc, hpriv, hcsr, ex, epc, epriv, ecsr, eflags⟩
  · rw [hkept, hflag]
    exact ⟨fun _ => ⟨hpriv.trans hu, hcsr⟩, nofun⟩
  · have hset : t.flags.isException = true := by rw [eflags, raise_flags]
    have htook : s.tookException t e v :=
      State.tookException_congr (raise_tookException e v hpc hpriv hcsr) epc epriv ecsr
    obtain ⟨hleft, hdelegated, hs, hm⟩ := tookException_user hu htook
    rw [hset]
    refine ⟨nofun, fun _ => ⟨ex.trans ?_, hleft, ⟨e, v, htook, hdelegated⟩, hs, hm, ?_⟩⟩
    · simpa [raise] using hx
    · have hframe := raise_csr_frame d e v
      rw [hcsr] at hframe
      rw [ecsr]
      exact hframe

end Sys2Proof.Machine
end

section
/-! PROOFS. The family of spec/50_execution_fsm.md section 5: against the ideal slave the five ticks of an instruction
without a memory operand are one pass (R430, R433). -/

namespace Sys2Proof.Machine

/-! ## What the instruction level hides or sets at its end -/

/-- The stage, the bus view, the controls and the status record, which Execute neither reads nor writes. -/
structure View where
  stage : Stage
  bus : Bus
  ctl : Control
  status : Status

def State.withView (s : State) (v : View) : State :=
  { s with stage := v.stage, bus := v.bus, ctl := v.ctl, status := v.status }

section Execute
variable (s : State) (v : View)

theorem raise_withView (e : Exc) (x : Word) : raise e x (s.withView v) = (raise e x s).withView v := by
  unfold raise
  cases h : trapToS (.exc e) s
  · rw [trapEntry_notDelegated s x h, trapEntry_notDelegated (s.withView v) x h]; rfl
  · rw [trapEntry_delegated s x h, trapEntry_delegated (s.withView v) x h]; rfl

theorem takeInterrupt_withView (j : Interrupt) : takeInterrupt j (s.withView v) = (takeInterrupt j s).withView v := by
  unfold takeInterrupt
  cases h : trapToS (.int j) s
  · rw [trapEntry_notDelegated s _ h, trapEntry_notDelegated (s.withView v) _ h]; rfl
  · rw [trapEntry_delegated s _ h, trapEntry_delegated (s.withView v) _ h]; rfl

theorem raiseUndecodable_withView : raiseUndecodable (s.withView v) = (raiseUndecodable s).withView v :=
  raise_withView { s with flags.illegalException := true } v .illegalInstr s.instWord

theorem setReg_withView (rd : Reg) (x : Word) : (s.withView v).setReg rd x = (s.setReg rd x).withView v := by
  unfold State.setReg
  split <;> rfl

theorem writeRd_withView (rd : Reg) (x : Word) : (s.withView v).writeRd rd x = (s.writeRd rd x).withView v := by
  rw [State.writeRd, setReg_withView]
  rfl

theorem transferTo_withView (target : Word) (linked : State) :
    transferTo target (linked.withView v) (s.withView v) = (transferTo target linked s).withView v := by
  unfold transferTo
  rw [raise_withView]
  split <;> rfl

theorem branch_withView (cond : Bool) (target : Word) :
    branch cond target (s.withView v) = (branch cond target s).withView v := by
  cases cond
  · rfl
  · exact transferTo_withView (s.setBranchFlags true) v target (s.setBranchFlags true)

theorem withRounding_withView (rm : BitVec 3) (rd : Reg) (f : Rounding → Word) :
    withRounding rm rd f (s.withView v) = (withRounding rm rd f s).withView v := by
  cases h : roundingMode rm with
  | none => rw [withRounding_reserved _ h, withRounding_reserved _ h, raiseUndecodable_withView]
  | some r => rw [withRounding_legal _ h, withRounding_legal _ h, writeRd_withView]

theorem csrRead_withView (c : Csr) : csrRead c (s.withView v) = ((csrRead c s).1, (csrRead c s).2.withView v) := by
  cases c <;> rfl

theorem csrWrite_withView (c : Csr) (x : Word) : csrWrite c x (s.withView v) = (csrWrite c x s).withView v := by
  cases c <;> rfl

theorem csrOp_withView (n : BitVec 12) (rd : Reg) (w : Bool) (new : Word → Word) :
    csrOp n rd w new (s.withView v) = (csrOp n rd w new s).withView v := by
  cases hc : csrAccess n w s.priv with
  | none =>
    rw [csrOp_illegal s hc, csrOp_illegal (s.withView v) hc]
    exact raise_withView s v .illegalInstr s.instWord
  | some c =>
    rw [csrOp_legal s hc, csrOp_legal (s.withView v) hc, csrRead_withView]
    cases w
    · simp only [Bool.false_eq_true, if_false, writeRd_withView]; rfl
    · simp only [if_true, csrWrite_withView, writeRd_withView]; rfl

variable {s}

theorem exec_withView {i : Instr} {t : State} (hm : preDecode i s = none) (he : exec i s = .next t) :
    exec i (s.withView v) = .next (t.withView v) := by
  cases i <;> simp only [preDecode, reduceCtorEq] at hm <;> obtain rfl := Host.Outcome.next.inj he <;>
    refine congrArg Host.Outcome.next ?_
  case jal rd off =>
    rw [← transferTo_withView, ← setReg_withView]; rfl
  case jalr rd rs1 imm =>
    rw [← transferTo_withView, ← setReg_withView]; rfl
  case beq | bne | blt | bge | bltu | bgeu => exact branch_withView ..
  case fence | fenceI | wfi | ebreak => rfl
  case ecall => exact raise_withView ..
  case sret =>
    rw [apply_ite (State.withView · v)]
    exact ite_congr rfl (fun _ => raise_withView ..) fun _ => rfl
  case mret =>
    rw [apply_ite (State.withView · v)]
    exact ite_congr rfl (fun _ => rfl) fun _ => raise_withView ..
  case sfenceVma =>
    rw [apply_ite (State.withView · v)]
    exact ite_congr rfl (fun _ => raise_withView ..) fun _ => rfl
  case csrrw | csrrs | csrrc | csrrwi | csrrsi | csrrci => exact csrOp_withView ..
  case faddS | fsubS | fmulS | fdivS | fsqrtS | fcvtWS | fcvtWuS | fcvtSW | fcvtSWu | fmaddS | fmsubS | fnmsubS | fnmaddS =>
    exact withRounding_withView ..
  all_goals exact writeRd_withView ..

theorem accessOfWord_beginExec (hm : preDecodeWord s = none) : accessOfWord s.beginExec = s.beginExec := by
  rw [accessOfWord, show preDecodeWord s.beginExec = none from hm]

/-- With no access to make, Execute decides as the pass does. -/
theorem execStage_eq_passExecute (hm : preDecodeWord s = none) : execStage s = passExecute s := by
  have hbody (i : Instr) (hd : decode s.beginExec.instWord = .ok i) :
      executeBody i s.beginExec = exec i s.beginExec := by
    refine executeBody_noAccess ?_
    have hd' : decode s.instWord = .ok i := hd
    rw [preDecodeWord, hd'] at hm
    exact (preDecode_congr rfl i).trans hm
  simp only [execStage, passExecute, accessOfWord_beginExec hm]
  cases firstInterrupt s.beginExec.flags.irq with
  | some j => rfl
  | none =>
    cases hd : decode s.beginExec.instWord with
    | error e => rfl
    | ok i => simp only [hbody i hd]

theorem passExecute_withView {t : State} (hm : preDecodeWord s = none) (he : passExecute s = .next t) :
    passExecute (s.withView v) = .next (t.withView v) := by
  rcases passExecute_cases s with ⟨j, hj, e⟩ | ⟨hi, ⟨hp, e⟩ | ⟨hp, ha, e⟩ | ⟨hp, ha, ⟨⟨r, hd⟩, e⟩ | ⟨i, hd, e⟩⟩⟩ <;>
    rw [e] at he
  · rw [accessOfWord_beginExec hm] at he
    rw [passExecute_interrupt (s := s.withView v) hj, accessOfWord_beginExec (s := s.withView v) hm]
    cases he
    exact congrArg _ (takeInterrupt_withView s.beginExec v j)
  · rw [passExecute_pageFault (s := s.withView v) hi hp]
    cases he
    exact congrArg _ (raise_withView s.beginExec v _ _)
  · rw [passExecute_accessFault (s := s.withView v) hi hp ha]
    cases he
    exact congrArg _ (raise_withView s.beginExec v _ _)
  · rw [passExecute_undecodable (s := s.withView v) hi hp ha hd]
    cases he
    exact congrArg _ (raiseUndecodable_withView s.beginExec v)
  · rw [passExecute_ok (s := s.withView v) hi hp ha hd]
    rw [preDecodeWord, hd] at hm
    exact exec_withView v (s := s.beginExec) ((preDecode_congr rfl i).trans hm) he

end Execute

/-! ## The bus phases with no slot or only the fetch slot active -/

/-- The load, MMU and write slots are not active. -/
structure Bus.FetchOnly (b : Bus) : Prop where
  load : b.loadReq.active = false
  mmu : b.mmuReq.active = false
  write : b.writeReq.active = false

theorem slaveR_inactive {q : ReadReq} (h : q.active = false) (s : State) (inp : AxiIn) : slaveR s q inp = inp := by
  rw [slaveR, h]
  rfl

/-- The input of an ideal slave that has nothing to answer. -/
def readyInput : AxiIn := { AxiIn.idle with arready := true, awready := true, wready := true }

section FetchOnly
variable {s : State} (h : s.bus.FetchOnly)
include h

theorem idealInput_fetchOnly : idealInput s = slaveR s s.bus.fetchReq readyInput := by
  rw [idealInput, slaveB, h.write, slaveR_inactive h.mmu, slaveR_inactive h.load]
  rfl

theorem slaveAcceptW_fetchOnly : slaveAcceptW s = s := by simp [slaveAcceptW, h.write]

theorem masterOutputs_fetchOnly : (masterOutputs s.bus).wvalid = false ∧ (masterOutputs s.bus).bready = false ∧
    (masterOutputs s.bus).rready = s.bus.fetchReq.active := by
  obtain ⟨-, hw, hb⟩ := writeSide_quiet (b := s.bus) (by simp [h.write])
  exact ⟨hw, hb, by simp [masterOutputs, h.load, h.mmu]⟩

theorem uartEvent_fetchOnly (inp : AxiIn) : uartEvent inp (masterOutputs s.bus) s = none := by
  simp [uartEvent, wBeat, (masterOutputs_fetchOnly h).1]

/-- Nothing but the R capture can follow the handshakes. -/
theorem busPhases_fetchOnly (inp : AxiIn) :
    busPhases inp s = captureR inp (masterOutputs s.bus) (handshakes inp s) := by
  obtain ⟨hw, hb, -⟩ := masterOutputs_fetchOnly h
  have hmmu : (captureR inp (masterOutputs s.bus) (handshakes inp s)).bus.mmuReq.active = false := by
    have hslots := (handshakes_sameSlots inp s).trans (captureR_sameSlots inp (masterOutputs s.bus) _)
    simpa [h.mmu] using fun ha => (hslots.mmu ha).1
  rw [busPhases_eq]
  generalize captureR inp (masterOutputs s.bus) (handshakes inp s) = t at hmmu
  simp [captureW, wBeat, captureB, completeMmu, hw, hb, hmmu]

theorem handshakes_fetchOnly (inp : AxiIn) : (handshakes inp s).bus.FetchOnly := by
  obtain ⟨-, hl, hw, hm⟩ := handshakes_sameSlots inp s
  refine ⟨hl.trans h.load, ?_, hw.trans h.write⟩
  simpa [h.mmu] using fun ha => (hm ha).1

/-- With no slot active only the bus view changes. -/
theorem busPhases_quiet (hf : s.bus.fetchReq.active = false) (inp : AxiIn) :
    ∃ b : Bus, b.FetchOnly ∧ b.fetchReq.active = false ∧ busPhases inp s = { s with bus := b } := by
  refine ⟨_, handshakes_fetchOnly h inp, (handshakes_sameSlots inp s).fetch.trans hf, ?_⟩
  obtain ⟨-, -, hr⟩ := masterOutputs_fetchOnly h
  rw [busPhases_fetchOnly h, captureR, hr, hf, Bool.and_false]
  rfl

variable (hf : s.bus.fetchReq.active = true)
include hf

/-- The fetch's address is accepted. -/
theorem busPhases_issue (hi : s.bus.fetchReq.issued = false) :
    ∃ b : Bus, b.FetchOnly ∧ b.fetchReq = { s.bus.fetchReq with issued := true } ∧
      busPhases (idealInput s) s = { s with bus := b } := by
  have hinp : idealInput s = readyInput := by simp [idealInput_fetchOnly h, slaveR, hi]
  rw [hinp]
  refine ⟨_, handshakes_fetchOnly h readyInput, ?_, ?_⟩
  · simp [handshakes, awHandshake, arHandshake, readyInput, ReadReq.unissued, hf, hi, h.write]
  · rw [busPhases_fetchOnly h, captureR]
    rfl

/-- The fetch's word comes back, into the mirror too. -/
theorem busPhases_answer (hi : s.bus.fetchReq.issued = true) (hseen : s.bus.fetchReq.respSeen = false)
    (herr : s.bus.fetchReq.respErr = false) (hbeats : s.bus.fetchReq.beatsSeen = 0)
    (hok : s.readsOk s.bus.fetchReq.addr) :
    ∃ b : Bus, b.FetchOnly ∧ b.fetchReq.issued = true ∧ b.fetchReq.respSeen = true ∧ b.fetchReq.respErr = false ∧
      busPhases (idealInput s) s =
        { s with bus := b, mirror := s.mirror.writeWord s.bus.fetchReq.addr (s.slave.mem.readWord s.bus.fetchReq.addr) } := by
  have hinp : idealInput s = { readyInput with
      rvalid := true, rid := wireId s.bus.fetchReq.master s.bus.fetchReq.id
      rdata := s.slave.mem.readWord s.bus.fetchReq.addr, rresp := 0#2, rlast := true } := by
    have hok' : s.slave.readErr.contains (wordAddress s.bus.fetchReq.addr) = false := hok
    rw [idealInput_fetchOnly h, slaveR, hf, hi, hseen, hok']
    rfl
  have hfetch : (handshakes (idealInput s) s).bus.fetchReq = s.bus.fetchReq := by
    simp [handshakes, awHandshake, arHandshake, ReadReq.unissued, hi, h.load, h.mmu, h.write]
  obtain ⟨-, -, hr⟩ := masterOutputs_fetchOnly h
  have hmatch : s.bus.fetchReq.matches (idealInput s).rid = true := by simp [ReadReq.matches, hf, hinp]
  have hready : (!((idealInput s).rvalid && (masterOutputs s.bus).rready)) = false := by
    rw [hr, hf, hinp]
    rfl
  have hfetchOnly := handshakes_fetchOnly h (idealInput s)
  rw [busPhases_fetchOnly h, captureR, hready, hfetch, hmatch]
  refine ⟨{ (handshakes (idealInput s) s).bus with fetchReq := s.bus.fetchReq.capture (idealInput s) },
    ⟨hfetchOnly.load, hfetchOnly.mmu, hfetchOnly.write⟩, hi, ?_, ?_, ?_⟩
  · simp [ReadReq.capture, hinp]
  · simp [ReadReq.capture, hinp, herr]
  · simp [State.mirrorBeat, beatAddress, hbeats, hinp, handshakes]

end FetchOnly

/-! ## The five ticks -/

/-- The state is `d` after `n` ticks, seen in stage `st` with the bus `b`; the watchdog and the status are left open. -/
def State.after (d : State) (n : Nat) (st : Stage) (b : Bus) (t : State) : Prop :=
  ∃ x y, t = d.withView
    { stage := st, bus := b, status := y
      ctl := { d.ctl with simTime := d.ctl.simTime + BitVec.ofNat 64 n, stallReported := x } }

/-- At least five cycles are left, and no other limit is reached. -/
def State.fiveLeft (d : State) : Prop :=
  d.ctl.instCount < d.ctl.maxInst ∧ d.ctl.simTime.toNat + 5 ≤ d.ctl.maxCycles.toNat

theorem limitHalt_eq_none_iff (s : State) :
    limitHalt s = none ↔ ¬s.ctl.maxInst ≤ s.ctl.instCount ∧ ¬s.ctl.maxCycles ≤ s.ctl.simTime := by
  unfold limitHalt
  split
  · simp [*]
  · split <;> simp [*]

section Ticks
variable {d t u : State} {n : Nat} {st : Stage} {b : Bus}

theorem State.after.bus_eq (h : d.after n st b t) : t.bus = b := by
  obtain ⟨x, y, rfl⟩ := h
  rfl

theorem State.after.stage_eq (h : d.after n st b t) : t.stage = st := by
  obtain ⟨x, y, rfl⟩ := h
  rfl

theorem State.after.setBus (h : d.after n st b t) (c : Bus) : d.after n st c { t with bus := c } := by
  obtain ⟨x, y, rfl⟩ := h
  exact ⟨x, y, rfl⟩

theorem State.after.start (s : State) : s.after 0 s.stage s.bus s :=
  ⟨s.ctl.stallReported, s.status, by simp [State.withView]⟩

theorem endTick_after (h : d.after n st b t) : d.after (n + 1) st b (endTick none t) := by
  obtain ⟨x, y, rfl⟩ := h
  have htime : d.ctl.simTime + BitVec.ofNat 64 n + BitVec.ofNat 64 1 = d.ctl.simTime + BitVec.ofNat 64 (n + 1) := by
    rw [BitVec.ofNat_add, BitVec.add_assoc]
  unfold endTick watchdog
  split
  · exact ⟨true, _, by rw [← htime]; rfl⟩
  · exact ⟨x, _, by rw [← htime]; rfl⟩

theorem limitHalt_after (hd : d.fiveLeft) (hn : n < 5) (h : d.after n st b t) : limitHalt t = none := by
  obtain ⟨x, y, rfl⟩ := h
  obtain ⟨hinst, hcycles⟩ := hd
  have htime : ¬d.ctl.maxCycles ≤ d.ctl.simTime + BitVec.ofNat 64 n := by
    have hmax := d.ctl.maxCycles.isLt
    simp only [BitVec.le_def, BitVec.toNat_add, BitVec.toNat_ofNat]
    omega
  have hinst' : ¬d.ctl.maxInst ≤ d.ctl.instCount := by simpa using hinst
  exact (limitHalt_eq_none_iff _).mpr ⟨hinst', htime⟩

section Tick
variable (hd : d.fiveLeft) (hn : n < 5) (ht : d.after n st b t) (hst : st ≠ .halted) (hb : b.FetchOnly)
  (hu : stageTransition (busPhases (idealInput t) t) = .next u)
include hd hn ht hst hb hu

/-- A tick against the ideal slave, no limit reached and no write open, is its bus phases and its stage's transition. -/
theorem idealTick_eq : idealTick t = .next (endTick none u) := by
  have hb' : t.bus.FetchOnly := ht.bus_eq ▸ hb
  have hst' : ¬t.stage = .halted := by rw [ht.stage_eq]; exact hst
  have hctl : (busPhases (idealInput t) t).ctl = t.ctl := (congrArg State.ctl (busPhases_frame (idealInput t) t) :)
  have hlimit : limitHalt (busPhases (idealInput t) t) = none := by
    rw [limitHalt_eq_none_iff, hctl, ← limitHalt_eq_none_iff]
    exact limitHalt_after hd hn ht
  rw [idealTick, if_neg hst', slaveAcceptW_fetchOnly hb', tick, if_neg hst', advanceStage, hlimit]
  simp only [hu, uartEvent_fetchOnly hb']

theorem idealTick_after {d' : State} {st' : Stage} {b' : Bus} (hafter : d'.after n st' b' u) :
    ∃ t', d'.after (n + 1) st' b' t' ∧ idealTick t = .next t' :=
  ⟨_, endTick_after hafter, idealTick_eq hd hn ht hst hb hu⟩

end Tick

theorem idealTicks_succ (h : idealTick t = .next u) : idealTicks (n + 1) t = idealTicks n u := by
  rw [idealTicks, h]

end Ticks

theorem translateCycle_bare {s : State} {ty : Access} (h : translationOn s ty = false) (va : Word) :
    translateCycle s va ty = (.ok va, s) := by
  simp [translateCycle, translateWith, h]

/-- PrepareFetch has begun an untranslated fetch: flags cleared, the address latched. -/
def fetchPrepared (s : State) : State := { s.clearFaultFlags with memop.kind := .none, fetchPaddr := s.pc }

/-- The word at the fetch address has come back, into the mirror, and is taken from there (R405, R461). -/
def wordAnswered (d : State) : State :=
  { d with
    mirror := d.mirror.writeWord d.fetchPaddr (d.slave.mem.readWord d.fetchPaddr)
    instWord := (d.mirror.writeWord d.fetchPaddr (d.slave.mem.readWord d.fetchPaddr)).readWord d.fetchPaddr }

/-- The slot of the fetch at `pc` (R402, R459). -/
def fetchSlot (pc : Word) : ReadReq := .arm 0#2 0#2 pc 3#2

section Stages
variable {s : State}

theorem stageTransition_prepareFetch (h : s.stage = .prepareFetch) : stageTransition s = .next (stagePrepareFetch s) := by
  rw [stageTransition, h]

theorem stageTransition_waitFetch (h : s.stage = .waitFetch) : stageTransition s = .next (stageWaitFetch s) := by
  rw [stageTransition, h]

theorem stageTransition_prepareData (h : s.stage = .prepareData) : stageTransition s = .next (stagePrepareData s) := by
  rw [stageTransition, h]

theorem stageTransition_execute (h : s.stage = .execute) : stageTransition s = stageExecute s := by
  rw [stageTransition, h]

theorem stagePrepareFetch_bare (hflag : s.flags.translationPending = false)
    (hbare : translationOn s .fetch = false) (hin : s.inBounds s.pc = true) :
    stagePrepareFetch s =
      { fetchPrepared s with bus := { s.bus with fetchReq := fetchSlot s.pc }, stage := .waitFetch } := by
  have hbegin : beginFetch s = { s.clearFaultFlags with memop.kind := .none } := by simp [beginFetch, hflag]
  simp only [stagePrepareFetch, hbegin]
  rw [translateCycle_bare (by exact hbare)]
  exact if_pos hin

theorem stageWaitFetch_unanswered (hseen : s.bus.fetchReq.respSeen = false) : stageWaitFetch s = s := by
  simp [stageWaitFetch, hseen]

theorem stagePrepareData_none (hflag : s.flags.translationPending = false) (hm : preDecodeWord s = none) :
    stagePrepareData s = s.goto .execute := by
  have hsame : { s with flags.translationPending := false } = s := by rw [← hflag]
  simp only [stagePrepareData, hsame, hm]

end Stages

section Fetch
variable {d s t : State} {b : Bus} {n : Nat}

/-- An untranslated pc inside the bounds is put on the bus. -/
theorem stagePrepareFetch_after (ht : d.after n .prepareFetch b t) (hflag : d.flags.translationPending = false)
    (hbare : translationOn d .fetch = false) (hin : d.inBounds d.pc = true) :
    (fetchPrepared d).after n .waitFetch { b with fetchReq := fetchSlot d.pc } (stagePrepareFetch t) := by
  obtain ⟨x, y, rfl⟩ := ht
  rw [stagePrepareFetch_bare (by exact hflag) (by exact hbare) (by exact hin)]
  exact ⟨x, y, rfl⟩

theorem stageWaitFetch_after (ht : d.after n .waitFetch b t) (hi : b.fetchReq.issued = true)
    (hseen : b.fetchReq.respSeen = true) (herr : b.fetchReq.respErr = false) :
    { d with instWord := d.mirror.readWord d.fetchPaddr }.after n .prepareData { b with fetchReq.active := false }
      (stageWaitFetch t) := by
  obtain ⟨x, y, rfl⟩ := ht
  exact ⟨x, y, by simp [stageWaitFetch, State.withView, hi, hseen, herr]⟩

theorem stagePrepareData_after (ht : d.after n .prepareData b t) (hflag : d.flags.translationPending = false)
    (hm : preDecodeWord d = none) : d.after n .execute b (stagePrepareData t) := by
  obtain ⟨x, y, rfl⟩ := ht
  rw [stagePrepareData_none (by exact hflag) (by exact hm)]
  exact ⟨x, y, rfl⟩

variable (hd : d.fiveLeft) (hn : n < 5) (hb : b.FetchOnly)
include hd hb hn

theorem idealTick_prepareFetch (ht : d.after n .prepareFetch b t) (hf : b.fetchReq.active = false)
    (hflag : d.flags.translationPending = false) (hbare : translationOn d .fetch = false)
    (hin : d.inBounds d.pc = true) :
    ∃ c u, c.FetchOnly ∧ c.fetchReq = fetchSlot d.pc ∧ (fetchPrepared d).after (n + 1) .waitFetch c u ∧
      idealTick t = .next u := by
  have hbus := ht.bus_eq
  obtain ⟨c, hc, -, hbusp⟩ := busPhases_quiet (s := t) (hbus ▸ hb) (by rw [hbus, hf]) (idealInput t)
  have hmid := hbusp ▸ ht.setBus c
  obtain ⟨u, hu, htick⟩ := idealTick_after hd hn ht (by decide) hb (stageTransition_prepareFetch hmid.stage_eq)
    (stagePrepareFetch_after hmid hflag hbare hin)
  exact ⟨{ c with fetchReq := fetchSlot d.pc }, u, ⟨hc.load, hc.mmu, hc.write⟩, rfl, hu, htick⟩

theorem idealTick_issue {pc : Word} (ht : d.after n .waitFetch b t) (hf : b.fetchReq = fetchSlot pc) :
    ∃ c u, c.FetchOnly ∧ c.fetchReq = { fetchSlot pc with issued := true } ∧ d.after (n + 1) .waitFetch c u ∧
      idealTick t = .next u := by
  have hbus := ht.bus_eq
  obtain ⟨c, hc, hslot, hbusp⟩ := busPhases_issue (s := t) (hbus ▸ hb) (by rw [hbus, hf]; rfl) (by rw [hbus, hf]; rfl)
  have hmid := hbusp ▸ ht.setBus c
  have hwaits : stageWaitFetch (busPhases (idealInput t) t) = busPhases (idealInput t) t := by
    refine stageWaitFetch_unanswered ?_
    rw [hmid.bus_eq, hslot, hbus, hf]
    rfl
  obtain ⟨u, hu, htick⟩ := idealTick_after hd hn ht (by decide) hb (stageTransition_waitFetch hmid.stage_eq)
    (hwaits.symm ▸ hmid)
  exact ⟨c, u, hc, by rw [hslot, hbus, hf], hu, htick⟩

theorem idealTick_answer (ht : d.after n .waitFetch b t)
    (hf : b.fetchReq = { fetchSlot d.fetchPaddr with issued := true }) (hok : d.readsOk d.fetchPaddr) :
    ∃ c u, c.FetchOnly ∧ c.fetchReq.active = false ∧ (wordAnswered d).after (n + 1) .prepareData c u ∧
      idealTick t = .next u := by
  have hslot : t.bus.fetchReq = { fetchSlot d.fetchPaddr with issued := true } := by rw [ht.bus_eq, hf]
  have haddr : t.bus.fetchReq.addr = d.fetchPaddr := by rw [hslot]; rfl
  have hslave : t.slave = d.slave := by obtain ⟨x, y, rfl⟩ := ht; rfl
  have hok' : t.readsOk t.bus.fetchReq.addr := by rw [haddr, State.readsOk, hslave]; exact hok
  obtain ⟨c, hc, hi, hseen, herr, hbusp⟩ := busPhases_answer (s := t) (ht.bus_eq ▸ hb) (by rw [hslot]; rfl)
    (by rw [hslot]) (by rw [hslot]; rfl) (by rw [hslot]; rfl) (by rw [hslot]; rfl) hok'
  rw [haddr] at hbusp
  have hmid : { d with mirror := d.mirror.writeWord d.fetchPaddr (d.slave.mem.readWord d.fetchPaddr) }.after n
      .waitFetch c (busPhases (idealInput t) t) := by
    rw [hbusp]
    obtain ⟨x, y, rfl⟩ := ht
    exact ⟨x, y, rfl⟩
  obtain ⟨u, hu, htick⟩ := idealTick_after hd hn ht (by decide) hb (stageTransition_waitFetch hmid.stage_eq)
    (stageWaitFetch_after hmid hi hseen herr)
  exact ⟨{ c with fetchReq.active := false }, u, ⟨hc.load, hc.mmu, hc.write⟩, rfl, hu, htick⟩

theorem idealTick_prepareData (ht : d.after n .prepareData b t) (hf : b.fetchReq.active = false)
    (hflag : d.flags.translationPending = false) (hm : preDecodeWord d = none) :
    ∃ c u, c.FetchOnly ∧ c.fetchReq.active = false ∧ d.after (n + 1) .execute c u ∧ idealTick t = .next u := by
  have hbus := ht.bus_eq
  obtain ⟨c, hc, hquiet, hbusp⟩ := busPhases_quiet (s := t) (hbus ▸ hb) (by rw [hbus, hf]) (idealInput t)
  have hmid := hbusp ▸ ht.setBus c
  obtain ⟨u, hu, htick⟩ := idealTick_after hd hn ht (by decide) hb (stageTransition_prepareData hmid.stage_eq)
    (stagePrepareData_after hmid hflag hm)
  exact ⟨c, u, hc, hquiet, hu, htick⟩

end Fetch

/-! ## The fetch of a pass, and the four ticks that make it -/

section Pass
variable {s : State} {w : Word} (hbare : translationOn s .fetch = false) (hf : s.fetches w)
include hbare hf

theorem fetches_pc : s.inBounds s.pc = true ∧ s.readsOk s.pc := by
  obtain ⟨-, pa, ⟨ht, hin⟩, hok, -⟩ := hf
  rw [translate_bare s hbare] at ht
  obtain rfl : s.pc = pa := by simpa using ht
  exact ⟨hin, hok⟩

/-- Apart from what `State.withView` sets, the fetch leaves the state the ticks reach. -/
theorem fetchPhase_bare : fetchPhase s = (wordAnswered (fetchPrepared s)).withView
    { stage := s.stage, bus := s.bus, status := s.status
      ctl := { s.ctl with simTime := s.ctl.simTime + 4#64 } } := by
  obtain ⟨hin, hok⟩ := fetches_pc hbare hf
  rw [fetchPhase_eq, translate_bare (fetchStart s) (by exact hbare), fetchAnswer_ok rfl (by exact hin)]
  have htime : s.ctl.simTime + 4#64 = s.ctl.simTime + BitVec.ofNat 64 1 + BitVec.ofNat 64 3 := by
    rw [BitVec.add_assoc]
    rfl
  rw [htime, fetchWord, busRead, show (fetchStart s).slave.readErr.contains (wordAddress s.pc) = false from hok]
  rfl

theorem idealTicks_fetch (hs : s.ready) (hleft : s.ctl.simTime.toNat + 5 ≤ s.ctl.maxCycles.toNat)
    (hm : preDecodeWord (wordAnswered (fetchPrepared s)) = none) :
    ∃ b t, b.FetchOnly ∧ b.fetchReq.active = false ∧ (wordAnswered (fetchPrepared s)).after 4 .execute b t ∧
      idealTicks 5 s = idealTicks 1 t := by
  obtain ⟨hboundary, hinst, -⟩ := hs
  simp only [State.atBoundary, waitAxi, Bool.and_eq_true, beq_iff_eq, Bool.not_eq_true', Bool.or_eq_false_iff] at hboundary
  obtain ⟨⟨hst, hflag⟩, ⟨⟨hfetch, hload⟩, hmmu⟩, hwrite⟩ := hboundary
  obtain ⟨hin, hok⟩ := fetches_pc hbare hf
  have hleft' : s.fiveLeft := ⟨hinst, hleft⟩
  have h0 : s.after 0 .prepareFetch s.bus s := hst ▸ .start s
  obtain ⟨b1, t1, hb1, hf1, h1, e1⟩ := idealTick_prepareFetch hleft' (by omega) ⟨hload, hmmu, hwrite⟩ h0 hfetch hflag
    hbare hin
  obtain ⟨b2, t2, hb2, hf2, h2, e2⟩ := idealTick_issue (d := fetchPrepared s) hleft' (by omega) hb1 h1 hf1
  obtain ⟨b3, t3, hb3, hf3, h3, e3⟩ := idealTick_answer (d := fetchPrepared s) hleft' (by omega) hb2 h2 hf2 hok
  obtain ⟨b4, t4, hb4, hf4, h4, e4⟩ := idealTick_prepareData (d := wordAnswered (fetchPrepared s)) hleft' (by omega) hb3 h3 hf3 rfl hm
  exact ⟨b4, t4, hb4, hf4, h4, by rw [idealTicks_succ e1, idealTicks_succ e2, idealTicks_succ e3, idealTicks_succ e4]⟩

end Pass

/-! ## Execute and the end of the pass -/

theorem passExecute_sameMachine {s t : State} (hm : preDecodeWord s = none) (he : passExecute s = .next t) :
    s.sameMachine t := by
  have hbegin : s.sameMachine s.beginExec := .of_eq rfl
  refine hbegin.trans ?_
  rcases passExecute_cases s with ⟨j, hj, e⟩ | ⟨hi, ⟨hp, e⟩ | ⟨hp, ha, e⟩ | ⟨hp, ha, ⟨⟨r, hd⟩, e⟩ | ⟨i, hd, e⟩⟩⟩ <;>
    rw [e] at he
  · rw [accessOfWord_beginExec hm] at he
    cases he
    exact .trap ..
  · cases he; exact .raise ..
  · cases he; exact .raise ..
  · cases he; exact .undecodable
  · rw [preDecodeWord, hd] at hm
    exact exec_sameMachine ((preDecode_congr rfl i).trans hm) he

theorem passExecute_completes {s : State} (hm : preDecodeWord s = none) : ∃ t, passExecute s = .next t := by
  obtain ⟨t, ht⟩ := stageExecute_completes s
  rw [stageExecute, execStage_eq_passExecute hm] at ht
  cases he : passExecute s with
  | next u => exact ⟨u, rfl⟩
  | fault r => simp [he] at ht
  | refused r => simp [he] at ht

theorem watchdog_counted {u : State} (h : u.ctl.lastProgress = u.ctl.simTime) : watchdog u = u := by
  have hzero : ¬BitVec.ofNat 64 Config.stallCycles < u.ctl.simTime - u.ctl.lastProgress := by
    rw [h, BitVec.sub_self]
    exact BitVec.not_lt_zero
  simp [watchdog, hzero]

theorem Bus.FetchOnly.waitAxi {b : Bus} (h : b.FetchOnly) (hf : b.fetchReq.active = false) :
    Machine.waitAxi b = false := by
  simp [Machine.waitAxi, h.load, h.mmu, h.write, hf]

/-- The tick in Execute, for a state that is also the one `f` that a pass executes. -/
theorem idealTick_execute {d f t u : State} {n : Nat} {b : Bus} (hd : d.fiveLeft) (hn : n < 5)
    (ht : d.after n .execute b t) (hf : f.after 0 .execute b t) (hb : b.FetchOnly) (hquiet : b.fetchReq.active = false)
    (hm : preDecodeWord f = none) (hu : passExecute f = .next u) :
    ∃ c x y, waitAxi c = false ∧ idealTick t = .next (endTick none (afterExec (u.withView
      { stage := .execute, bus := c, ctl := { u.ctl with stallReported := x }, status := y }))) := by
  have hbus := ht.bus_eq
  obtain ⟨c, hc, hquiet', hbusp⟩ := busPhases_quiet (s := t) (hbus ▸ hb) (by rw [hbus, hquiet]) (idealInput t)
  have hmid := hbusp ▸ hf.setBus c
  obtain ⟨x, y, hview⟩ := id hmid
  have hctl : f.ctl = u.ctl := (passExecute_sameMachine hm hu).ctl.symm
  rw [BitVec.add_zero, hctl] at hview
  refine ⟨c, x, y, hc.waitAxi hquiet', idealTick_eq hd hn ht (by decide) hb ?_⟩
  rw [stageTransition_execute hmid.stage_eq, stageExecute, hview, execStage_eq_passExecute (by exact hm),
    passExecute_withView _ hm hu]

section EndOfPass
variable {u : State} {b : Bus} {x : Bool} {y : Status}

/-- A drained pass ends where its Execute tick does, but for the bus view. -/
theorem retire_eqButBus (hlatch : u.latch.store = false) (hst : u.stage = .prepareFetch)
    (hu : waitAxi u.bus = false) (hb : waitAxi b = false) :
    (retire u).eqButBus (endTick none (afterExec (u.withView
      { stage := .execute, bus := b, ctl := { u.ctl with stallReported := x }, status := y }))) := by
  have hticks : retireTicks u = 1 := by simp [retireTicks, hlatch]
  rw [State.eqButBus, retire, hticks, endTick]
  by_cases hw : u.instWord = Config.instEbreak
  · rw [if_pos hw, afterExec, if_pos (by exact hw), watchdog_counted (by rfl)]
    apply State.eq_of_fields
    case h15 => simp [refreshStatus, haltEbreak, countInstruction, State.tickBy, State.withView, hu, hb]
    all_goals rfl
  · rw [if_neg hw, afterExec, if_neg (by exact hw), if_neg (by simp [State.withView, hlatch]), watchdog_counted (by rfl)]
    apply State.eq_of_fields
    case h9 => exact hst.symm
    case h15 => simp [refreshStatus, State.goto, countInstruction, State.tickBy, State.withView, hu, hb, hst]
    all_goals rfl

end EndOfPass

/-- The four ticks of the fetch end where the pass's fetch does. -/
theorem after_fetchPhase {s t : State} {w : Word} {b : Bus} (hbare : translationOn s .fetch = false)
    (hf : s.fetches w) (ht : (wordAnswered (fetchPrepared s)).after 4 .execute b t) :
    (fetchPhase s).after 0 .execute b t := by
  obtain ⟨x, y, rfl⟩ := ht
  refine ⟨x, y, ?_⟩
  rw [fetchPhase_bare hbare hf, BitVec.add_zero]
  rfl

/-- Settles O60: four ticks fetch the word, the fifth executes it as the pass does. -/
theorem fiveTicksMakeOneStep : Obligations.FiveTicksMakeOneStep := by
  intro s w hs hlatch hleft hbare hf hnone
  have hphase := fetchPhase_bare hbare hf
  have hm : preDecodeWord (fetchPhase s) = none := by
    rw [preDecodeWord, (fetchPhase_fetches hf).1]
    cases hd : decode w with
    | error e => rfl
    | ok i => exact (preDecode_congr (by rw [hphase]; rfl) i).trans (hnone i hd)
  obtain ⟨u, hu⟩ := passExecute_completes hm
  obtain ⟨b, t, hb, hquiet, ht, hticks⟩ := idealTicks_fetch hbare hf hs hleft (by rw [hphase] at hm; exact hm)
  obtain ⟨c, x, y, hc, htick⟩ := idealTick_execute (d := wordAnswered (fetchPrepared s)) ⟨hs.2.1, hleft⟩ (by omega) ht
    (after_fetchPhase hbare hf ht) hb hquiet hm hu
  have hsame := passExecute_sameMachine hm hu
  have hboundary := hs.1
  simp only [State.atBoundary, Bool.and_eq_true, beq_iff_eq, Bool.not_eq_true'] at hboundary
  obtain ⟨⟨hst, -⟩, hwait⟩ := hboundary
  refine ⟨_, retire u, ?_, ?_, retire_eqButBus (b := c) (x := x) (y := y) ?_ ?_ ?_ hc⟩
  · rw [hticks, idealTicks_succ htick, idealTicks]
  · rw [step_ready hs, instructionPass, hu]
  · rw [hsame.latch, hphase]; exact hlatch
  · rw [hsame.stage, hphase]; exact hst
  · rw [hsame.bus, hphase]; exact hwait


end Sys2Proof.Machine
end
